-- ==== Sys2Proof/Word.lean ====
section
/-! DEFINITION. The word types of the command interface (00_scope R8, R10): bit 0 is the least significant bit and every
value is an unsigned integer. -/

namespace Sys2Proof

/-- One payload, header or status word, `PORT_W` = 32 bits (00_scope R8, D9). -/
abbrev Word := BitVec 32

/-- A format identifier, `FMT_ID_W` = 8 bits (10_state R22). -/
abbrev FmtId := BitVec 8

/-- A normalized component as it travels on the command interface, `COMP_W` = 8 bits (30_encoding R69). -/
abbrev Component := BitVec 8

/-- One byte of the host's files (20_memory R46 to R50); the block itself has no bytes (R44). -/
abbrev Byte := BitVec 8

end Sys2Proof
end

