-- ==== Sys2Proof/Config.lean ====
section
/-! DEFINITION. The parameters of the block (00_scope R8) and the value types its registry is made of (10_state R16 to R21).
The registry itself is architectural state (10_state R15): its contents after reset stand in Machine/Rom.lean. -/

namespace Sys2Proof

/-- A channel of a pixel, in the fixed order red, green, blue, alpha: index 0, 1, 2, 3 (10_state R20). -/
inductive Channel where
  | r
  | g
  | b
  | a
  deriving DecidableEq, Repr

/-- An ordered 4-tuple over the channels (R, G, B, A): four lanes side by side, none of them optional (10_state R20, R32,
42_codec R107). -/
structure Lanes (α : Type) where
  r : α
  g : α
  b : α
  a : α
  deriving DecidableEq, Repr

/-- How one channel occupies bits inside a packed integer (10_state R16). Three unsigned integers; the conditions on them
are `BitFieldSpec.wf`. -/
structure BitFieldSpec where
  shift : Nat
  mask : Nat
  scale : Nat
  deriving DecidableEq, Repr

/-- The width of a format's packed word: "word_width: 16 | 32" (10_state R20). -/
inductive WordWidth where
  | w16
  | w32
  deriving DecidableEq, Repr

/-- The width as the number RESOLVE returns, "16 or 32, not a code" (41_registry R104). -/
def WordWidth.bits : WordWidth → Nat
  | .w16 => 16
  | .w32 => 32

/-- A format's name, its four channel specs and its word width (10_state R20). -/
structure FormatDescriptor where
  name : FmtId
  channels : Lanes BitFieldSpec
  wordWidth : WordWidth
  deriving DecidableEq, Repr

/-- The registry: the registered descriptors, in strictly ascending order of their names (`Registry.wf`). An address that
is not listed reads as `none` (10_state R21, 20_memory R42). -/
structure Registry where
  entries : List FormatDescriptor
  deriving DecidableEq, Repr

/-- `COMP_MAX`, the largest normalized component (00_scope R8). -/
def Config.compMax : Nat := 255

/-- `MAX_LEN`, the largest payload length accepted: by default there is none (00_scope R8, D16). The machine reads the
value in `State.maxLen`, whose reset value this is. -/
def Config.maxLen : Option Nat := none

/-- The "format-specific tag words" a texture file's header carries for a destination format: "opaque vendor constants",
neither their number nor their values are in the source (20_memory R49, N14, U12: any value). Read by the host-side writer
of Machine/HostIO.lean only. -/
opaque Config.textureTags : FmtId → List Word

end Sys2Proof
end

