-- ==== Sys2Proof/Syntax.lean ====
section
/-! DEFINITION. Packets (30_encoding R61, R71), the nine commands as terms (R64, R66), and the verdicts of the decoder
(R75, R78). -/

namespace Sys2Proof

/-- A command packet: one header word, then the payload. The transport marks where it ends, so the payload's length is
part of the packet and not of the header (30_encoding R61). -/
structure Packet where
  header : Word
  payload : List Word
  deriving DecidableEq, Repr

/-- A response packet: one status word, then the payload (30_encoding R71). -/
structure Response where
  status : Word
  payload : List Word
  deriving DecidableEq, Repr

/-- The nine commands of `PFC-CMD 1.0`, one constructor per row of spec/opcode_table.json, with the operands assembled as
30_encoding R74 says and in the source's parameter order (R82). A pixel operand is the whole payload word: which of its
bits count is the format's business (R68). -/
inductive Instr where
  /-- SUPPORTS name (41_registry R98). -/
  | supports (name : FmtId)
  /-- SUPPORTS_ALL [name0, name1, ...] (41_registry R100). -/
  | supportsAll (names : List FmtId)
  /-- LIST_SUPPORTED (41_registry R102). -/
  | listSupported
  /-- RESOLVE name (41_registry R104). -/
  | resolve (name : FmtId)
  /-- DECOMPOSE name.ch, packed (40_bitfield R87). -/
  | decompose (name : FmtId) (ch : Channel) (packed : Word)
  /-- RECOMPOSE name.ch, value (40_bitfield R90). -/
  | recompose (name : FmtId) (ch : Channel) (value : Component)
  /-- DECODE packed, name (42_codec R109). -/
  | decode (packed : Word) (name : FmtId)
  /-- ENCODE [c0, c1, ...], name (42_codec R112). -/
  | encode (components : List Component) (name : FmtId)
  /-- CONVERT [p0, p1, ...], from, to (43_pipeline R120). -/
  | convert (pixels : List Word) (source target : FmtId)
  deriving DecidableEq, Repr

/-- The nine rows of the opcode map (30_encoding R66). -/
inductive Opcode where
  | supports
  | supportsAll
  | listSupported
  | resolve
  | decompose
  | recompose
  | decode
  | encode
  | convert
  deriving DecidableEq, Repr

/-- Why a packet is a reserved encoding (30_encoding R78), one constructor per ground. -/
inductive Reserved where
  /-- `op` is 0x00 or 0x0A to 0xFF (30_encoding R77). -/
  | opcode
  /-- A must-be-zero header bit is set (30_encoding R65). -/
  | mustBeZero
  /-- The payload length is not one the command allows (30_encoding R76). -/
  | payloadLength
  /-- A component word has one of bits 31:8 set (30_encoding R69). -/
  | componentBits
  /-- A name word has one of bits 31:8 set (30_encoding R70). -/
  | nameBits
  /-- The payload is longer than `MAX_LEN` (30_encoding R78, 70_reset R159). -/
  | payloadTooLong
  deriving DecidableEq, Repr

/-- What a decoder returns for a packet: "either a command or the verdict *reserved*" (30_encoding R75). -/
inductive Verdict where
  | command (i : Instr)
  | reserved (why : Reserved)
  deriving DecidableEq, Repr

end Sys2Proof
end

