-- ==== Sys2Proof/WellFormed.lean ====
section
/-! DEFINITION. Well-formedness: the five checks of 70_reset R150 on a registry, and the one condition on a command that its
operand types do not already say, the payload bound `MAX_LEN` (00_scope R8). Every check is a Bool. -/

namespace Sys2Proof

/-- `bitwidth(m)` for a mask: "the position of the highest 1 bit plus one" (00_scope R10). -/
def bitwidth (m : Nat) : Nat := m.log2 + 1

/-- The bits of the word a spec's channel owns: `mask << shift` (40_bitfield R88). -/
def BitFieldSpec.field (c : BitFieldSpec) : Nat := c.mask <<< c.shift

/-- Check (1): the mask is a run of low-order 1 bits (10_state R16, 70_reset R150). -/
def BitFieldSpec.contiguousMask (c : BitFieldSpec) : Bool :=
  decide (0 < c.mask) && c.mask &&& (c.mask + 1) == 0

/-- Check (2): the field lies inside the packed word (10_state R17, 70_reset R150). -/
def BitFieldSpec.inWord (c : BitFieldSpec) (w : WordWidth) : Bool :=
  decide (c.shift + bitwidth c.mask ≤ w.bits)

/-- Check (4): the scale is positive, a decoded value stays in [0,255] and an encoded raw field stays in its mask
(10_state R16, R19, 70_reset R150). -/
def BitFieldSpec.scaleFits (c : BitFieldSpec) : Bool :=
  decide (1 ≤ c.scale) && decide (c.mask * c.scale ≤ Config.compMax) && decide (Config.compMax / c.scale ≤ c.mask)

/-- Checks (1), (2) and (4) on one spec of a format of width `w`. -/
def BitFieldSpec.wf (w : WordWidth) (c : BitFieldSpec) : Bool :=
  c.contiguousMask && c.inWord w && c.scaleFits

/-- Two specs own no bit in common. -/
def BitFieldSpec.disjoint (c d : BitFieldSpec) : Bool := c.field &&& d.field == 0

/-- Check (5): the four fields of an entry are pairwise disjoint (70_reset R150). -/
def FormatDescriptor.disjointFields (d : FormatDescriptor) : Bool :=
  d.channels.r.disjoint d.channels.g && d.channels.r.disjoint d.channels.b && d.channels.r.disjoint d.channels.a &&
  d.channels.g.disjoint d.channels.b && d.channels.g.disjoint d.channels.a && d.channels.b.disjoint d.channels.a

/-- A well-formed descriptor. Check (3) of 70_reset R150, four specs and a width of 16 or 32, is in the types. -/
def FormatDescriptor.wf (d : FormatDescriptor) : Bool :=
  d.channels.r.wf d.wordWidth && d.channels.g.wf d.wordWidth && d.channels.b.wf d.wordWidth &&
  d.channels.a.wf d.wordWidth && d.disjointFields

/-- The canonical form of the registry: each name below the next one. -/
def ascending : List FormatDescriptor → Bool
  | [] => true
  | [_] => true
  | d :: e :: rest => decide (d.name.toNat < e.name.toNat) && ascending (e :: rest)

/-- A well-formed registry (70_reset R150) in canonical form: "well-formedness is a premise" (D35).
The order is the model's own check, not one of R150's (log 6). -/
def Registry.wf (rom : Registry) : Bool := rom.entries.all FormatDescriptor.wf && ascending rom.entries

/-- A payload of `n` words is within `MAX_LEN` (00_scope R8, 30_encoding R78). -/
def withinMaxLen (maxLen : Option Nat) (n : Nat) : Bool :=
  match maxLen with
  | none => true
  | some m => decide (n ≤ m)

/-- How many payload words a command has (30_encoding R64). -/
def Instr.payloadLength : Instr → Nat
  | .supports _ => 0
  | .supportsAll names => names.length
  | .listSupported => 0
  | .resolve _ => 0
  | .decompose _ _ _ => 1
  | .recompose _ _ _ => 1
  | .decode _ _ => 1
  | .encode components _ => components.length
  | .convert pixels _ _ => pixels.length

/-- A well-formed command for a block whose `MAX_LEN` is `maxLen`: every other condition of 30_encoding R65 to R70 holds of
any term of `Instr`, whose operand types are as wide as the encoding's fields. -/
def Instr.wf (maxLen : Option Nat) (i : Instr) : Bool := withinMaxLen maxLen i.payloadLength

end Sys2Proof
end

