-- ==== Sys2Proof/Decode.lean ====
section
/-! DEFINITION. The decoder of 30_encoding R75, total on packets and rejecting by name, the encoder written from the same
tables (R63, R64, R66), and the two functions the host uses to lay a row of spec/opcode_table.json out as a packet. -/

namespace Sys2Proof

/-- Header bits 31:24 (30_encoding R63). -/
def headerOp (h : Word) : BitVec 8 := h.extractLsb' 24 8

/-- Header bits 23:16, the first format identifier (30_encoding R63). -/
def headerFa (h : Word) : FmtId := h.extractLsb' 16 8

/-- Header bits 15:8, the second format identifier (30_encoding R63). -/
def headerFb (h : Word) : FmtId := h.extractLsb' 8 8

/-- Header bits 1:0, the channel index (30_encoding R63). -/
def headerCh (h : Word) : BitVec 2 := h.extractLsb' 0 2

/-- `header = (op << 24) | (fa << 16) | (fb << 8) | aux` (30_encoding R63). -/
def header (op : BitVec 8) (fa fb : FmtId) (aux : BitVec 8) : Word :=
  (op.setWidth 32 <<< 24) ||| (fa.setWidth 32 <<< 16) ||| (fb.setWidth 32 <<< 8) ||| aux.setWidth 32

/-- Channel index 0 is red, 1 green, 2 blue, 3 alpha: "all four values legal" (30_encoding R63, R74). -/
def Channel.ofIndex (c : BitVec 2) : Channel :=
  if c = 0 then .r else if c = 1 then .g else if c = 2 then .b else .a

/-- The channel's index in `aux[1:0]` (30_encoding R63). -/
def Channel.index : Channel → BitVec 8
  | .r => 0
  | .g => 1
  | .b => 2
  | .a => 3

/-- The `op` column of the opcode map (30_encoding R66). -/
def Opcode.code : Opcode → BitVec 8
  | .supports => 0x01
  | .supportsAll => 0x02
  | .listSupported => 0x03
  | .resolve => 0x04
  | .decompose => 0x05
  | .recompose => 0x06
  | .decode => 0x07
  | .encode => 0x08
  | .convert => 0x09

/-- The `match` column of the opcode map (30_encoding R66). -/
def Opcode.pattern : Opcode → Word
  | .supports => 0x01000000
  | .supportsAll => 0x02000000
  | .listSupported => 0x03000000
  | .resolve => 0x04000000
  | .decompose => 0x05000000
  | .recompose => 0x06000000
  | .decode => 0x07000000
  | .encode => 0x08000000
  | .convert => 0x09000000

/-- The `mask` column: the opcode bits and the must-be-zero bits (30_encoding R65, R66). -/
def Opcode.mask : Opcode → Word
  | .supports => 0xFF00FFFF
  | .supportsAll => 0xFFFFFFFF
  | .listSupported => 0xFFFFFFFF
  | .resolve => 0xFF00FFFF
  | .decompose => 0xFF00FFFC
  | .recompose => 0xFF00FFFC
  | .decode => 0xFF00FFFF
  | .encode => 0xFF00FFFF
  | .convert => 0xFF0000FF

/-- The row whose `op` is `c`; every other code is a reserved opcode (30_encoding R66, R77). -/
def Opcode.ofCode (c : BitVec 8) : Option Opcode :=
  [Opcode.supports, .supportsAll, .listSupported, .resolve, .decompose, .recompose, .decode, .encode, .convert].find?
    fun op => op.code == c

/-- The legal payload lengths (30_encoding R76). -/
def Opcode.lengthLegal (op : Opcode) (n : Nat) : Bool :=
  match op with
  | .supports | .listSupported | .resolve => n == 0
  | .decompose | .recompose | .decode => n == 1
  | .supportsAll | .encode | .convert => true

/-- Bits 31:8 of a component or name word are zero (30_encoding R69, R70). -/
def highBitsClear (w : Word) : Bool := w.extractLsb' 8 24 == 0

/-- The check of the payload's elements: component words of RECOMPOSE and ENCODE, name words of SUPPORTS_ALL; a pixel word
may have any bits (30_encoding R64, R68 to R70, R75). -/
def Opcode.elementFault (op : Opcode) (payload : List Word) : Option Reserved :=
  match op with
  | .supportsAll => if payload.all highBitsClear then none else some .nameBits
  | .recompose | .encode => if payload.all highBitsClear then none else some .componentBits
  | .supports | .listSupported | .resolve | .decompose | .decode | .convert => none

/-- The value of a component or name word, bits 7:0 (30_encoding R69, R70, R74). -/
def lowByte (w : Word) : BitVec 8 := w.setWidth 8

/-- Element 0 of a payload whose length has been checked. -/
def firstElement (payload : List Word) : Word := payload.headD 0

/-- The operands of a checked packet (30_encoding R74). -/
def Opcode.assemble (op : Opcode) (p : Packet) : Instr :=
  match op with
  | .supports => .supports (headerFa p.header)
  | .supportsAll => .supportsAll (p.payload.map lowByte)
  | .listSupported => .listSupported
  | .resolve => .resolve (headerFa p.header)
  | .decompose => .decompose (headerFa p.header) (.ofIndex (headerCh p.header)) (firstElement p.payload)
  | .recompose => .recompose (headerFa p.header) (.ofIndex (headerCh p.header)) (lowByte (firstElement p.payload))
  | .decode => .decode (firstElement p.payload) (headerFa p.header)
  | .encode => .encode (p.payload.map lowByte) (headerFa p.header)
  | .convert => .convert p.payload (headerFa p.header) (headerFb p.header)

/-- Steps (2) to (5) of the decoding procedure, for the row `op` (30_encoding R75). -/
def Opcode.decodeAs (op : Opcode) (p : Packet) : Verdict :=
  if p.header &&& op.mask ≠ op.pattern then .reserved .mustBeZero
  else if op.lengthLegal p.payload.length = false then .reserved .payloadLength
  else match op.elementFault p.payload with
    | some why => .reserved why
    | none => .command (op.assemble p)

/-- The decoding procedure, total on packets, in the order of 30_encoding R75. It looks at the packet only, never at the
registry. -/
def decode (p : Packet) : Verdict :=
  match Opcode.ofCode (headerOp p.header) with
  | none => .reserved .opcode
  | some op => op.decodeAs p

/-- What the block accepts: a packet that decodes and whose payload is no longer than `MAX_LEN`; a longer one is refused,
"never truncated" (30_encoding R78, 70_reset R159, D16). -/
def accept (maxLen : Option Nat) (p : Packet) : Verdict :=
  match decode p with
  | .reserved why => .reserved why
  | .command i => if withinMaxLen maxLen p.payload.length then .command i else .reserved .payloadTooLong

/-- A component or a format identifier as a payload word: value in bits 7:0, zero above (30_encoding R69, R70). -/
def byteWord (v : BitVec 8) : Word := v.setWidth 32

/-- The packet of a command (30_encoding R63, R64, R66, R82). -/
def encode : Instr → Packet
  | .supports name => ⟨header 0x01 name 0 0, []⟩
  | .supportsAll names => ⟨header 0x02 0 0 0, names.map byteWord⟩
  | .listSupported => ⟨header 0x03 0 0 0, []⟩
  | .resolve name => ⟨header 0x04 name 0 0, []⟩
  | .decompose name ch packed => ⟨header 0x05 name 0 ch.index, [packed]⟩
  | .recompose name ch value => ⟨header 0x06 name 0 ch.index, [byteWord value]⟩
  | .decode packed name => ⟨header 0x07 name 0 0, [packed]⟩
  | .encode components name => ⟨header 0x08 name 0 0, components.map byteWord⟩
  | .convert pixels source target => ⟨header 0x09 source target 0, pixels⟩

/-- How many payload words the packet of a bare opcode-table row gets. The header does not hold the length (30_encoding
R61), so a row that names no payload word needs one chosen: the only legal length where there is one, else four components
for ENCODE and one element for SUPPORTS_ALL and CONVERT (log 7). -/
def rowPayloadLength (h : Word) : Nat :=
  match Opcode.ofCode (headerOp h) with
  | some .decompose | some .recompose | some .decode | some .supportsAll | some .convert => 1
  | some .encode => 4
  | some .supports | some .listSupported | some .resolve | none => 0

/-- The `n` words of 32 bits that `w` holds from its least significant bit up. -/
def wordsOfNat : Nat → Nat → List Word
  | 0, _ => []
  | n + 1, w => BitVec.ofNat 32 w :: wordsOfNat n (w / 2 ^ 32)

/-- The packet of an opcode-table row whose bits are `w`, numbered from the header's bit 0: the header is bits 31:0, payload
word `i` is bits `32 (i + 1) + 31` down to `32 (i + 1)`, every bit from `nbits` on is zero, and the payload has as many words
as `nbits` reaches or as `rowPayloadLength` asks for. -/
def tablePacket (nbits w : Nat) : Packet :=
  let bits := w % 2 ^ nbits
  let h : Word := BitVec.ofNat 32 bits
  ⟨h, wordsOfNat (max ((nbits + 31) / 32 - 1) (rowPayloadLength h)) (bits / 2 ^ 32)⟩

/-- The command the decoder reads from the packet of an opcode-table row; `none` where it refuses. -/
def decodeTableWord (nbits w : Nat) : Option Instr :=
  match decode (tablePacket nbits w) with
  | .command i => some i
  | .reserved _ => none

end Sys2Proof
end

