-- ==== Sys2Proof/Machine/Rom.lean ====
section
/-! DEFINITION. The contents of the registry ROM from reset onward (10_state R22, R24 to R29, R40). Which numbers are the
source's and which are the spec's own decisions D4 and D5 is said by 10_state R23 and log 1. -/

namespace Sys2Proof.Machine

/-- The identifier codes, in the row order of the source's format table (10_state R22, D3). -/
def Fmt.rgba4444 : FmtId := 0x00
/-- See `Fmt.rgba4444`. -/
def Fmt.rgba5551 : FmtId := 0x01
/-- See `Fmt.rgba4444`. -/
def Fmt.argb5551 : FmtId := 0x02
/-- See `Fmt.rgba4444`. -/
def Fmt.rgba8888 : FmtId := 0x03
/-- See `Fmt.rgba4444`. -/
def Fmt.bgra8888 : FmtId := 0x04
/-- See `Fmt.rgba4444`. -/
def Fmt.argb8888 : FmtId := 0x05

/-- `ROM[0x00]` (10_state R24). -/
def Rom.rgba4444 : FormatDescriptor where
  name := Fmt.rgba4444
  channels := ⟨⟨12, 0xF, 16⟩, ⟨8, 0xF, 16⟩, ⟨4, 0xF, 16⟩, ⟨0, 0xF, 16⟩⟩
  wordWidth := .w16

/-- `ROM[0x01]` (10_state R25). -/
def Rom.rgba5551 : FormatDescriptor where
  name := Fmt.rgba5551
  channels := ⟨⟨11, 0x1F, 8⟩, ⟨6, 0x1F, 8⟩, ⟨1, 0x1F, 8⟩, ⟨0, 0x1, 255⟩⟩
  wordWidth := .w16

/-- `ROM[0x02]` (10_state R26). -/
def Rom.argb5551 : FormatDescriptor where
  name := Fmt.argb5551
  channels := ⟨⟨10, 0x1F, 8⟩, ⟨5, 0x1F, 8⟩, ⟨0, 0x1F, 8⟩, ⟨15, 0x1, 255⟩⟩
  wordWidth := .w16

/-- `ROM[0x03]` (10_state R27). -/
def Rom.rgba8888 : FormatDescriptor where
  name := Fmt.rgba8888
  channels := ⟨⟨24, 0xFF, 1⟩, ⟨16, 0xFF, 1⟩, ⟨8, 0xFF, 1⟩, ⟨0, 0xFF, 1⟩⟩
  wordWidth := .w32

/-- `ROM[0x04]` (10_state R28). -/
def Rom.bgra8888 : FormatDescriptor where
  name := Fmt.bgra8888
  channels := ⟨⟨8, 0xFF, 1⟩, ⟨16, 0xFF, 1⟩, ⟨24, 0xFF, 1⟩, ⟨0, 0xFF, 1⟩⟩
  wordWidth := .w32

/-- `ROM[0x05]`, the one entry the source gives whole (10_state R29). -/
def Rom.argb8888 : FormatDescriptor where
  name := Fmt.argb8888
  channels := ⟨⟨16, 0xFF, 1⟩, ⟨8, 0xFF, 1⟩, ⟨0, 0xFF, 1⟩, ⟨24, 0xFF, 1⟩⟩
  wordWidth := .w32

/-- The default registry (10_state R22 to R29): the value of the parameter `REGISTRY` (00_scope R8). -/
def Rom.default : Registry :=
  ⟨[Rom.rgba4444, Rom.rgba5551, Rom.argb5551, Rom.rgba8888, Rom.bgra8888, Rom.argb8888]⟩

end Sys2Proof.Machine
end

