-- ==== Sys2Proof/Machine/State.lean ====
section
/-! DEFINITION. The state of the block, the reasons a step can stop, and the state right after reset. -/

namespace Sys2Proof.Machine

/-- The block and what stands at its command interface.

The spec's own state is the registry ROM and nothing else (10_state R15). `maxLen` is the spec's parameter `MAX_LEN` (00_scope
R8, R9: fixed at run time), carried here because a step is a function of the state alone (log 2). `commands` and `responses`
are the model's own fields: the commands the host has issued and the responses it has been given, both in order (20_memory
R54, log 3). No command reads `responses`. -/
structure State where
  rom : Registry
  maxLen : Option Nat
  commands : List Packet
  responses : List Response
  deriving DecidableEq, Repr

/-- The faults of the machine: none. The block's three errors are responses, after which it goes on (60_exceptions R137,
R138, R139), and what the spec gives no meaning to is refused, "not a fault" (U6). So no step raises one (log 11). Safe: a
type with no constructor states nothing of the hardware. -/
inductive Fault where
  deriving DecidableEq, Repr

/-- The refusals of the machine. -/
inductive Refusal where
  /-- An instruction that has no meaning yet, raised by an arm of `exec`; safe, and no arm of this model raises it. -/
  | notModelled (mnemonic : String)
  /-- The next packet is a reserved encoding (30_encoding R78), raised by `step`; safe: the spec gives it no meaning. -/
  | reserved (why : Reserved)
  /-- The registry fails a check of 70_reset R150 or is out of its canonical order (log 6), raised by `step`; safe: "an ill-formed registry is refused, not run"
  (D35, U7). -/
  | illFormedRegistry
  deriving DecidableEq, Repr

/-- The machine right after reset: the ROM holds the default registry (10_state R40) and no command is pending (70_reset R148:
the block waits for its first command). -/
def State.reset : State where
  rom := Rom.default
  maxLen := Config.maxLen
  commands := []
  responses := []

end Sys2Proof.Machine
end

