-- ==== Sys2Proof/Machine/Flags.lean ====
section
/-! DEFINITION. PFC has no flags: "the only status is the code in each response ... which belongs to that response and is not
kept" (10_state R36). This file holds those codes (30_encoding R72). -/

namespace Sys2Proof.Machine

/-- The three errors of the block, "typed, distinguishable" (60_exceptions R127, R128). -/
inductive ErrorKind where
  /-- A format that must be resolved is not registered (60_exceptions R129). -/
  | unknownFormat
  /-- `from` or `to` of a conversion is not registered (60_exceptions R130). -/
  | unsupportedFormatPair
  /-- The input of encode does not contain exactly four components (60_exceptions R132). -/
  | componentCountMismatch
  deriving DecidableEq, Repr

/-- The status word of a command whose function returned a value (30_encoding R72). -/
def statusOk : Word := 0x00000000

/-- The status word of an error: its code in bits 7:0, zero above (30_encoding R72, 60_exceptions R128). -/
def ErrorKind.status : ErrorKind → Word
  | .unknownFormat => 0x00000001
  | .unsupportedFormatPair => 0x00000002
  | .componentCountMismatch => 0x00000003

end Sys2Proof.Machine
end

