-- ==== Sys2Proof/Machine/Operands.lean ====
section
/-! DEFINITION. The operand forms of 30_encoding R67 to R70 and R74 as the units of the block see them: pixel, component and
name elements, and the four lanes of a pixel. Inside the block every value is an unsigned integer (00_scope R10, 20_memory R44),
a Nat here; a result is narrowed once, when it becomes a payload word. -/

namespace Sys2Proof.Machine

/-- The lane of a channel (10_state R20). -/
def laneOf {α : Type} (l : Lanes α) : Channel → α
  | .r => l.r
  | .g => l.g
  | .b => l.b
  | .a => l.a

/-- The lanes in the fixed order R, G, B, A (42_codec R107). -/
def lanesInOrder {α : Type} (l : Lanes α) : List α := [l.r, l.g, l.b, l.a]

/-- A pixel operand of a format of width `w`: the whole payload word for a 32-bit format, `word[15:0]` for a 16-bit one, whose
bits 31:16 the block ignores (30_encoding R68, R74). -/
def pixelOperand (w : WordWidth) (word : Word) : Nat := word.toNat % 2 ^ w.bits

/-- A component operand (30_encoding R69, R74). -/
def componentOperand (c : Component) : Nat := c.toNat

/-- An unsigned integer as one payload word: `zext_32(v)` of a pixel or a component, and the plain numbers of RESOLVE
(30_encoding R68, R69, R73). For a well-formed registry every value the block produces is below 2^32, so nothing is cut off
(40_bitfield R91, 42_codec R114). -/
def valueWord (v : Nat) : Word := BitVec.ofNat 32 v

/-- A format identifier as a name word (30_encoding R70). -/
def nameWord (name : FmtId) : Word := name.setWidth 32

/-- A Boolean answer: 1 for true, 0 for false (30_encoding R73). -/
def boolWord (b : Bool) : Word := if b then 1 else 0

end Sys2Proof.Machine
end

