-- ==== Sys2Proof/Machine/Ops.lean ====
section
/-! DEFINITION. The operations every command shares: reading the registry (20_memory R42), answering (30_encoding R71 to R73),
raising an error (60_exceptions R137), and the host's side of the command interface. There is no return from an error: "there is
no return instruction and nothing to restore" (60_exceptions R138). -/

namespace Sys2Proof.Machine

/-- `ROM[id]`: the descriptor registered under `id`, or `none` (00_scope R11, 10_state R21). The block's only storage read; it
has no side effect (20_memory R42). -/
def romAt (rom : Registry) (id : FmtId) : Option FormatDescriptor := rom.entries.find? fun d => d.name == id

/-- `supports(name) = (ROM[name] != none)` (41_registry R97). -/
def supports (rom : Registry) (name : FmtId) : Bool := (romAt rom name).isSome

/-- `list_supported()`: the registered identifiers in ascending order (41_registry R101), which is the order a well-formed
registry lists them in. -/
def listSupported (rom : Registry) : List FmtId := rom.entries.map fun d => d.name

/-- `resolve(name)`: the registered descriptor, or `UnknownFormat` (41_registry R103). Every other unit obtains a format's specs
through it. -/
def resolve (rom : Registry) (name : FmtId) : Except ErrorKind FormatDescriptor :=
  match romAt rom name with
  | none => .error .unknownFormat
  | some d => .ok d

/-- Give the host a response, after the ones it already has (20_memory R54). The only way a command changes the state. -/
def State.answer (s : State) (r : Response) : State := { s with responses := s.responses ++ [r] }

/-- `respond(payload)`: the command ends with status OK and the given words (00_scope R11, 30_encoding R72). -/
def State.respond (s : State) (payload : List Word) : State := s.answer ⟨statusOk, payload⟩

/-- The payload of an error response: the supported list for `UnknownFormat`, whose "message must enumerate supported
identifiers", nothing for the other two (30_encoding R73, 60_exceptions R129, R134). -/
def errorPayload (rom : Registry) : ErrorKind → List Word
  | .unknownFormat => (listSupported rom).map nameWord
  | .unsupportedFormatPair => []
  | .componentCountMismatch => []

/-- `raise e`: the command stops and its response is the status word with the error's code and the error's payload. "No state
is saved, because there is none to save", and control goes nowhere: the error is the response (60_exceptions R137). -/
def State.raise (s : State) (e : ErrorKind) : State := s.answer ⟨e.status, errorPayload s.rom e⟩

/-- The end of every command: its function's value as the payload of an OK response, or its error. "A command either fails
whole or succeeds whole" (60_exceptions R136). -/
def State.complete (s : State) (result : Except ErrorKind (List Word)) : Host.Outcome State Fault Refusal :=
  match result with
  | .ok payload => .next (s.respond payload)
  | .error e => .next (s.raise e)

/-- The oldest pending command and the state without it: the block takes commands one at a time in the order the host issues
them (20_memory R54). -/
def State.takeCommand (s : State) : Option (Packet × State) :=
  match s.commands with
  | [] => none
  | p :: rest => some (p, { s with commands := rest })

/-- The host issues a command (20_memory R54). -/
def State.issue (s : State) (p : Packet) : State := { s with commands := s.commands ++ [p] }

/-- The host reads the responses it has been given (20_memory R54). -/
def State.takeResponses (s : State) : List Response × State := (s.responses, { s with responses := [] })

end Sys2Proof.Machine
end

