-- ==== Sys2Proof/Machine/BitField.lean ====
section
/-! DEFINITION. The bit-field unit (40_bitfield): `decompose`, `recompose` and the commands DECOMPOSE and RECOMPOSE. -/

namespace Sys2Proof.Machine

/-- `decompose(s, packed) = ((packed >> s.shift) & s.mask) * s.scale` (40_bitfield R85). -/
def decompose (c : BitFieldSpec) (packed : Nat) : Nat := ((packed >>> c.shift) &&& c.mask) * c.scale

/-- `recompose(s, value) = (value / s.scale) << s.shift`, with truncating division and no masking step (40_bitfield R88). -/
def recompose (c : BitFieldSpec) (value : Nat) : Nat := (value / c.scale) <<< c.shift

/-- The value of DECOMPOSE (40_bitfield R87): one component word. -/
def decomposeResult (rom : Registry) (name : FmtId) (ch : Channel) (packed : Word) : Except ErrorKind (List Word) :=
  match resolve rom name with
  | .error e => .error e
  | .ok d => .ok [valueWord (decompose (laneOf d.channels ch) (pixelOperand d.wordWidth packed))]

/-- The value of RECOMPOSE (40_bitfield R90): one pixel word, the partial packed value. -/
def recomposeResult (rom : Registry) (name : FmtId) (ch : Channel) (value : Component) : Except ErrorKind (List Word) :=
  match resolve rom name with
  | .error e => .error e
  | .ok d => .ok [valueWord (recompose (laneOf d.channels ch) (componentOperand value))]

/-- DECOMPOSE name.ch, packed (40_bitfield R87). -/
def execDecompose (name : FmtId) (ch : Channel) (packed : Word) (s : State) : Host.Outcome State Fault Refusal :=
  s.complete (decomposeResult s.rom name ch packed)

/-- RECOMPOSE name.ch, value (40_bitfield R90). -/
def execRecompose (name : FmtId) (ch : Channel) (value : Component) (s : State) : Host.Outcome State Fault Refusal :=
  s.complete (recomposeResult s.rom name ch value)

end Sys2Proof.Machine
end

