-- ==== Sys2Proof/Machine/Codec.lean ====
section
/-! DEFINITION. The pixel codec (42_codec): four lanes side by side, always in the order R, G, B, A (R107); the commands DECODE
and ENCODE. -/

namespace Sys2Proof.Machine

/-- The four lanes of decode: each applies `decompose` with its own spec to the same packed pixel (42_codec R107, R108). -/
def unpackPixel (d : FormatDescriptor) (packed : Nat) : Lanes Nat where
  r := decompose d.channels.r packed
  g := decompose d.channels.g packed
  b := decompose d.channels.b packed
  a := decompose d.channels.a packed

/-- The four lanes of encode: lane k applies `recompose` with its own spec to component k, and the four partial words are
combined "with bitwise OR" (42_codec R107, R111). -/
def packPixel (d : FormatDescriptor) (c : Lanes Nat) : Nat :=
  recompose d.channels.r c.r ||| recompose d.channels.g c.g ||| recompose d.channels.b c.b ||| recompose d.channels.a c.a

/-- `decode(packed, format)`, `packed` being a payload word of the format (42_codec R108). -/
def decodePixel (rom : Registry) (packed : Word) (format : FmtId) : Except ErrorKind (Lanes Nat) :=
  match resolve rom format with
  | .error e => .error e
  | .ok d => .ok (unpackPixel d (pixelOperand d.wordWidth packed))

/-- `encode(components, format)`: the format is resolved first, the count checked second (42_codec R111, R113, 60_exceptions
R133; log 8). -/
def encodePixel (rom : Registry) (components : List Nat) (format : FmtId) : Except ErrorKind Nat :=
  match resolve rom format with
  | .error e => .error e
  | .ok d =>
    match components with
    | [r, g, b, a] => .ok (packPixel d ⟨r, g, b, a⟩)
    | _ => .error .componentCountMismatch

/-- The value of DECODE (42_codec R109): four component words in lane order. -/
def decodeResult (rom : Registry) (packed : Word) (name : FmtId) : Except ErrorKind (List Word) :=
  match decodePixel rom packed name with
  | .error e => .error e
  | .ok c => .ok ((lanesInOrder c).map valueWord)

/-- The value of ENCODE (42_codec R112): one pixel word. -/
def encodeResult (rom : Registry) (components : List Component) (name : FmtId) : Except ErrorKind (List Word) :=
  match encodePixel rom (components.map componentOperand) name with
  | .error e => .error e
  | .ok p => .ok [valueWord p]

/-- DECODE packed, name (42_codec R109). -/
def execDecode (packed : Word) (name : FmtId) (s : State) : Host.Outcome State Fault Refusal :=
  s.complete (decodeResult s.rom packed name)

/-- ENCODE [c0, c1, ...], name (42_codec R112). -/
def execEncode (components : List Component) (name : FmtId) (s : State) : Host.Outcome State Fault Refusal :=
  s.complete (encodeResult s.rom components name)

end Sys2Proof.Machine
end

