-- ==== Sys2Proof/Machine/Pipeline.lean ====
section
/-! DEFINITION. The converter pipeline (43_pipeline): a decoder stage feeding an encoder stage, pixel by pixel, after both formats
have been checked; the command CONVERT. -/

namespace Sys2Proof.Machine

/-- One pixel through the two stages, `source`'s lanes then `target`'s (43_pipeline R117, R119). -/
def convertPixel (source target : FormatDescriptor) (pixel : Word) : Word :=
  valueWord (packPixel target (unpackPixel source (pixelOperand source.wordWidth pixel)))

/-- `convert(pixels, from, to)`: the format check comes first and is the only failure, then an element-wise map, which every
order of processing and any parallelism agrees with (43_pipeline R119, R121, R123, 20_memory R57). -/
def convertResult (rom : Registry) (pixels : List Word) (source target : FmtId) : Except ErrorKind (List Word) :=
  match romAt rom source, romAt rom target with
  | some from_, some to_ => .ok (pixels.map (convertPixel from_ to_))
  | _, _ => .error .unsupportedFormatPair

/-- CONVERT [p0, p1, ...], from, to (43_pipeline R120). -/
def execConvert (pixels : List Word) (source target : FmtId) (s : State) : Host.Outcome State Fault Refusal :=
  s.complete (convertResult s.rom pixels source target)

end Sys2Proof.Machine
end

