-- ==== Sys2Proof/Machine/Queries.lean ====
section
/-! DEFINITION. The registry queries (41_registry): SUPPORTS, SUPPORTS_ALL, LIST_SUPPORTED and RESOLVE. None of them changes
anything; each is a function of the ROM and its operands (R105). -/

namespace Sys2Proof.Machine

/-- `supports_all(names)`: every name is supported; true of the empty collection (41_registry R99). -/
def supportsAll (rom : Registry) (names : List FmtId) : Bool := names.all (supports rom)

/-- The three numbers of one channel, in the order RESOLVE gives them (41_registry R104). -/
def specWords (c : BitFieldSpec) : List Word := [valueWord c.shift, valueWord c.mask, valueWord c.scale]

/-- The thirteen words RESOLVE returns for a descriptor: the width, then shift, mask and scale of R, G, B, A (41_registry
R104, 30_encoding R73). -/
def descriptorWords (d : FormatDescriptor) : List Word :=
  valueWord d.wordWidth.bits :: (lanesInOrder d.channels).flatMap specWords

/-- The value of RESOLVE (41_registry R104). -/
def resolveResult (rom : Registry) (name : FmtId) : Except ErrorKind (List Word) :=
  match resolve rom name with
  | .error e => .error e
  | .ok d => .ok (descriptorWords d)

/-- SUPPORTS name (41_registry R98): it cannot fail (D40). -/
def execSupports (name : FmtId) (s : State) : Host.Outcome State Fault Refusal :=
  s.complete (.ok [boolWord (supports s.rom name)])

/-- SUPPORTS_ALL [name0, name1, ...] (41_registry R100): "false (not an error)". -/
def execSupportsAll (names : List FmtId) (s : State) : Host.Outcome State Fault Refusal :=
  s.complete (.ok [boolWord (supportsAll s.rom names)])

/-- LIST_SUPPORTED (41_registry R102). -/
def execListSupported (s : State) : Host.Outcome State Fault Refusal :=
  s.complete (.ok ((listSupported s.rom).map nameWord))

/-- RESOLVE name (41_registry R104). -/
def execResolve (name : FmtId) (s : State) : Host.Outcome State Fault Refusal :=
  s.complete (resolveResult s.rom name)

end Sys2Proof.Machine
end

