-- ==== Sys2Proof/Machine/Dispatch.lean ====
section
/-! DEFINITION. One arm per command of the opcode map (30_encoding R66). -/

namespace Sys2Proof.Machine

def exec (i : Instr) (s : State) : Host.Outcome State Fault Refusal :=
  match i with
  | .supports name => Sys2Proof.Machine.execSupports name s
  | .supportsAll names => Sys2Proof.Machine.execSupportsAll names s
  | .listSupported => Sys2Proof.Machine.execListSupported s
  | .resolve name => Sys2Proof.Machine.execResolve name s
  | .decompose name ch packed => Sys2Proof.Machine.execDecompose name ch packed s
  | .recompose name ch value => Sys2Proof.Machine.execRecompose name ch value s
  | .decode packed name => Sys2Proof.Machine.execDecode packed name s
  | .encode components name => Sys2Proof.Machine.execEncode components name s
  | .convert pixels source target => Sys2Proof.Machine.execConvert pixels source target s

end Sys2Proof.Machine
end

