-- ==== Sys2Proof/Machine/Step.lean ====
section
/-! DEFINITION. One step of the machine is one command: "one command accepted and one response produced" (00_scope R7). -/

namespace Sys2Proof.Machine

/-- Take the oldest pending command, decode it and run it.

A registry that fails a check of 70_reset R150 is refused, not run (D35, U7), and so is one out of canonical order (log 6). With no command pending the block waits (70_reset
R148) and the step changes nothing (log 4). A packet the decoder calls reserved, or one longer than `MAX_LEN`, is refused
(30_encoding R78). -/
def step (s : State) : Host.Outcome State Fault Refusal :=
  if s.rom.wf = true then
    match s.takeCommand with
    | none => .next s
    | some (p, rest) =>
      match accept s.maxLen p with
      | .command i => exec i rest
      | .reserved why => .refused (.reserved why)
  else .refused .illFormedRegistry

/-- `s` with the packet of an opcode-table row as the next command the block takes (log 7). -/
def State.withFetchWord (s : State) (nbits w : Nat) : State :=
  { s with commands := tablePacket nbits w :: s.commands }

end Sys2Proof.Machine
end

