-- ==== Sys2Proof/Machine/HostIO.lean ====
section
/-! DEFINITION. The byte layouts of the two I/O collaborators (20_memory R44 to R50): host side, "not part of the block" (00_scope
R6). No step and no command calls anything here; the functions write the host's obligations down (70_reset R154). -/

namespace Sys2Proof.Machine

/-- Two bytes at increasing offsets, little-endian: `b0 | (b1 << 8)` (20_memory R46). -/
def word16OfBytes (b0 b1 : Byte) : Word := b0.setWidth 32 ||| (b1.setWidth 32 <<< 8)

/-- Four bytes at increasing offsets, little-endian (20_memory R46). -/
def word32OfBytes (b0 b1 b2 b3 : Byte) : Word :=
  b0.setWidth 32 ||| (b1.setWidth 32 <<< 8) ||| (b2.setWidth 32 <<< 16) ||| (b3.setWidth 32 <<< 24)

/-- File bytes as 16-bit pixel words; `none` for a remainder of one byte, of which the source says nothing (N15). -/
def pixels16 : List Byte → Option (List Word)
  | [] => some []
  | b0 :: b1 :: rest => (pixels16 rest).map (word16OfBytes b0 b1 :: ·)
  | [_] => none

/-- File bytes as 32-bit pixel words; `none` for a remainder of one to three bytes (N15). -/
def pixels32 : List Byte → Option (List Word)
  | [] => some []
  | b0 :: b1 :: b2 :: b3 :: rest => (pixels32 rest).map (word32OfBytes b0 b1 b2 b3 :: ·)
  | _ => none

/-- The unpack layout of the source format, by its word width (20_memory R45, R46). -/
def pixelsOfBytes : WordWidth → List Byte → Option (List Word)
  | .w16 => pixels16
  | .w32 => pixels32

/-- The four bytes at a file offset, little-endian; `none` past the end of the file. -/
def readLe32 (file : List Byte) (offset : Nat) : Option Word :=
  match file.drop offset with
  | b0 :: b1 :: b2 :: b3 :: _ => some (word32OfBytes b0 b1 b2 b3)
  | _ => none

/-- The fields the reader takes from a bitmap container's header (20_memory R47). -/
structure BitmapHeader where
  pixelStart : Word
  headerSize : Word
  width : Word
  height : Word
  deriving DecidableEq, Repr

/-- Four consecutive little-endian words at 0x0A, 0x0E, 0x12 and 0x16 (20_memory R47). -/
def readBitmapHeader (file : List Byte) : Option BitmapHeader := do
  let pixelStart ← readLe32 file 0x0A
  let headerSize ← readLe32 file 0x0E
  let width ← readLe32 file 0x12
  let height ← readLe32 file 0x16
  pure ⟨pixelStart, headerSize, width, height⟩

/-- What the reader returns: `{pixels, width, height}` (20_memory R48). -/
structure BitmapImage where
  pixels : List Word
  width : Word
  height : Word
  deriving DecidableEq, Repr

/-- Why the collaborators' contract gives no image (60_exceptions R131; never the block's). -/
inductive HostError where
  /-- "the backing file is absent" (60_exceptions R127). -/
  | missingFile
  /-- "unreadable": the header's sixteen bytes are not there (60_exceptions R127; DESIGN CHOICE, log 10). -/
  | ioFailure
  /-- The remainder of the file is not a whole number of words: not in the source (N15; DESIGN CHOICE, log 10). -/
  | notStated
  deriving DecidableEq, Repr

/-- The bitmap reader: the header, then the remainder of the file from the pixel start as pixel words of the source format's
width (20_memory R47, R48). A pixel start past the end of the file leaves no remainder, so the image has no pixels: the spec does not
say what the reader then does (DESIGN CHOICE, log 10). -/
def readBitmap (w : WordWidth) (file : Option (List Byte)) : Except HostError BitmapImage :=
  match file with
  | none => .error .missingFile
  | some bytes =>
    match readBitmapHeader bytes with
    | none => .error .ioFailure
    | some h =>
      match pixelsOfBytes w (bytes.drop h.pixelStart.toNat) with
      | none => .error .notStated
      | some pixels => .ok ⟨pixels, h.width, h.height⟩

/-- The byte `v[8k+7 : 8k]` of a word. -/
def byteOf (v : Word) (k : Nat) : Byte := v.extractLsb' (8 * k) 8

/-- A 32-bit word, little-endian: the texture file's header words (20_memory R49). -/
def le32Bytes (v : Word) : List Byte := [byteOf v 0, byteOf v 1, byteOf v 2, byteOf v 3]

/-- A pixel in a texture file: "16-bit destination formats pack little-endian while 32-bit destination formats pack big-endian"
(20_memory R50). -/
def pixelBytes : WordWidth → Word → List Byte
  | .w16, p => [byteOf p 0, byteOf p 1]
  | .w32, p => [byteOf p 3, byteOf p 2, byteOf p 1, byteOf p 0]

/-- The texture writer: header words `[width, height, tags]` little-endian, then the pixels (20_memory R49, R50). The tag words
are `Config.textureTags`, of which nothing is known. -/
def textureBytes (target : FormatDescriptor) (width height : Word) (pixels : List Word) : List Byte :=
  (width :: height :: Config.textureTags target.name).flatMap le32Bytes ++ pixels.flatMap (pixelBytes target.wordWidth)

end Sys2Proof.Machine
end

