-- ==== Sys2Proof/Safety.lean ====
section
/-! DEFINITION. What the statements about whole runs are made of: the invariant of the machine, and the commands a host that keeps
its side of the contract issues (70_reset R160). -/

namespace Sys2Proof.Machine

/-- A response of one of the four shapes the block produces: OK with a payload, or one of the three errors with exactly the
payload the spec gives it (30_encoding R72, R73). Every other status word is "never produced". -/
abbrev Response.legal (rom : Registry) (r : Response) : Prop :=
  r.status = 0 ∨ (r.status = 1 ∧ r.payload = (listSupported rom).map nameWord) ∨
  (r.status = 2 ∧ r.payload = []) ∨ (r.status = 3 ∧ r.payload = [])

/-- The invariant every step keeps: the registry passes the checks of 70_reset R150, and every response given is a legal one. -/
structure State.Inv (s : State) : Prop where
  romWf : s.rom.wf = true
  responsesLegal : ∀ r ∈ s.responses, Response.legal s.rom r

/-- A packet the block accepts: well-formed by 30_encoding R75 and no longer than `MAX_LEN` (70_reset R160). -/
def accepted (maxLen : Option Nat) (p : Packet) : Bool :=
  match accept maxLen p with
  | .command _ => true
  | .reserved _ => false

/-- Every pending command is one the block accepts: the premise "every packet is well-formed" of 70_reset R160. -/
def State.allAccepted (s : State) : Bool := s.commands.all (accepted s.maxLen)

/-- The block as `s` finds it, with `p` as the only pending command and no response given yet. -/
def State.alone (s : State) (p : Packet) : State := { s with commands := [p], responses := [] }

end Sys2Proof.Machine
end

