-- ==== Sys2Proof/Certificates/Slice0/Obligations.lean ====
section
/-! DEFINITION. The statements for the provers, in the order of spec/: reset and registry, bit-field unit, registry queries, codec,
pipeline, errors and frames, encoding, step, runs, host byte layouts. A statement's docstring names the rule it formalises; where
it rests on a decision the spec marks as its own (D<n>) or on a log entry, the docstring says so. -/

open Sys2Proof Sys2Proof.Machine

/-! ### Reset and the registry -/

/-- 10_state R29: the one entry the source gives whole. -/
def Obligations.ResetHoldsTheArgb8888Entry : Prop :=
  romAt State.reset.rom 0x05 =
    some ⟨0x05, ⟨⟨16, 0xFF, 1⟩, ⟨8, 0xFF, 1⟩, ⟨0, 0xFF, 1⟩, ⟨24, 0xFF, 1⟩⟩, .w32⟩

/-- 10_state R22, R24 to R28, R40: the other five entries, the 250 unregistered codes, and nothing else held. The codes, shifts
and 5-bit scales are the spec's own decisions D3, D4, D5 (log 1); `maxLen` is log 2, the empty lists are log 3. -/
def Obligations.ResetHoldsTheDecidedTable : Prop :=
  romAt State.reset.rom 0x00 = some ⟨0x00, ⟨⟨12, 0xF, 16⟩, ⟨8, 0xF, 16⟩, ⟨4, 0xF, 16⟩, ⟨0, 0xF, 16⟩⟩, .w16⟩ ∧
  romAt State.reset.rom 0x01 = some ⟨0x01, ⟨⟨11, 0x1F, 8⟩, ⟨6, 0x1F, 8⟩, ⟨1, 0x1F, 8⟩, ⟨0, 0x1, 255⟩⟩, .w16⟩ ∧
  romAt State.reset.rom 0x02 = some ⟨0x02, ⟨⟨10, 0x1F, 8⟩, ⟨5, 0x1F, 8⟩, ⟨0, 0x1F, 8⟩, ⟨15, 0x1, 255⟩⟩, .w16⟩ ∧
  romAt State.reset.rom 0x03 = some ⟨0x03, ⟨⟨24, 0xFF, 1⟩, ⟨16, 0xFF, 1⟩, ⟨8, 0xFF, 1⟩, ⟨0, 0xFF, 1⟩⟩, .w32⟩ ∧
  romAt State.reset.rom 0x04 = some ⟨0x04, ⟨⟨8, 0xFF, 1⟩, ⟨16, 0xFF, 1⟩, ⟨24, 0xFF, 1⟩, ⟨0, 0xFF, 1⟩⟩, .w32⟩ ∧
  (∀ id : FmtId, 5 < id.toNat → romAt State.reset.rom id = none) ∧
  State.reset.maxLen = none ∧ State.reset.commands = [] ∧ State.reset.responses = []

/-- 70_reset R150, 10_state R40: the state after reset meets the invariant that every step keeps. -/
def Obligations.ResetMeetsTheInvariant : Prop := State.reset.Inv

/-- 10_state R30 (a) to (f), of the default table (its numbers are D4 and D5). -/
def Obligations.DefaultTableProperties : Prop :=
  ∀ d ∈ State.reset.rom.entries,
    (∀ c ∈ [d.channels.r, d.channels.g, d.channels.b, d.channels.a],
      c.mask = 2 ^ bitwidth c.mask - 1 ∧ c.shift + bitwidth c.mask ≤ d.wordWidth.bits ∧
      c.mask * c.scale ≤ 255 ∧ 255 / c.scale ≤ c.mask ∧
      c.mask * c.scale = (if c.mask = 0xF then 240 else if c.mask = 0x1F then 248 else 255)) ∧
    [d.channels.r, d.channels.g, d.channels.b, d.channels.a].Pairwise
      (fun c e => (c.mask <<< c.shift) &&& (e.mask <<< e.shift) = 0) ∧
    d.channels.r.mask <<< d.channels.r.shift ||| d.channels.g.mask <<< d.channels.g.shift |||
      d.channels.b.mask <<< d.channels.b.shift ||| d.channels.a.mask <<< d.channels.a.shift = 2 ^ d.wordWidth.bits - 1

/-- 10_state R16 and R17, of every spec of every format of a well-formed registry. -/
def Obligations.SpecsAreLowOrderRunsInsideTheWord : Prop :=
  ∀ rom : Registry, rom.wf = true → ∀ d ∈ rom.entries, ∀ (ch : Channel) (c : BitFieldSpec), laneOf d.channels ch = c →
    (∃ w, 1 ≤ w ∧ c.mask = 2 ^ w - 1) ∧ 1 ≤ c.scale ∧
    c.shift + bitwidth c.mask ≤ d.wordWidth.bits ∧ c.shift ≤ 31 ∧ bitwidth c.mask ≤ 32

/-- 10_state R19: "Together they give mask = 255 / scale" (the spec marks it derived). -/
def Obligations.MaskIsTheLargestRawField : Prop :=
  ∀ (w : WordWidth) (c : BitFieldSpec), c.wf w = true →
    c.mask = 255 / c.scale ∧ c.mask ≤ 255 ∧ bitwidth c.mask ≤ 8 ∧ c.scale ≤ 255

/-! ### The bit-field unit -/

/-- 40_bitfield R85: the formula, the range of the raw field, and the range and granularity of the result. -/
def Obligations.DecomposeIsRawFieldTimesScale : Prop :=
  ∀ (c : BitFieldSpec) (packed : Nat),
    decompose c packed = ((packed >>> c.shift) &&& c.mask) * c.scale ∧
    (packed >>> c.shift) &&& c.mask ≤ c.mask ∧
    c.scale ∣ decompose c packed ∧ decompose c packed ≤ c.mask * c.scale

/-- 40_bitfield R86: the result depends only on the bits of the field, and fits a component (in part derived by the spec). -/
def Obligations.DecomposeReadsItsFieldOnly : Prop :=
  ∀ (w : WordWidth) (c : BitFieldSpec), c.wf w = true → ∀ p q : Nat,
    (∀ i, c.shift ≤ i → i < c.shift + bitwidth c.mask → p.testBit i = q.testBit i) →
    decompose c p = decompose c q ∧ decompose c p ≤ 255

/-- 40_bitfield R88: the formula, that the result "yields only the bits owned by this channel", and that a complete pixel is the
OR of the four channels' results. -/
def Obligations.RecomposeYieldsOnlyItsField : Prop :=
  (∀ (w : WordWidth) (c : BitFieldSpec), c.wf w = true → ∀ value ≤ 255,
    recompose c value = (value / c.scale) <<< c.shift ∧
    recompose c value &&& (c.mask <<< c.shift) = recompose c value) ∧
  (∀ (d : FormatDescriptor) (c : Lanes Nat),
    packPixel d c = recompose d.channels.r c.r ||| recompose d.channels.g c.g |||
      recompose d.channels.b c.b ||| recompose d.channels.a c.a)

/-- 40_bitfield R89: "value and value − (value mod scale) give the same result. For scale = 1 nothing is lost." -/
def Obligations.RecomposeTruncates : Prop :=
  ∀ (c : BitFieldSpec) (value : Nat),
    recompose c value = recompose c (value - value % c.scale) ∧
    (c.scale = 1 → recompose c value = value <<< c.shift)

/-- 40_bitfield R92 (a) and (b) (the spec marks them derived). -/
def Obligations.ChannelCompositions : Prop :=
  ∀ (w : WordWidth) (c : BitFieldSpec), c.wf w = true →
    (∀ v ≤ 255, decompose c (recompose c v) = v - v % c.scale) ∧
    (∀ p : Nat, recompose c (decompose c p) = p &&& (c.mask <<< c.shift))

/-- 40_bitfield R87, R85: DECOMPOSE of a registered format completes with one component word, computed from the whole payload word:
bits above the format's width have no effect (30_encoding R68). The command and its packet are the spec's decision D27. -/
def Obligations.DecomposeCommandCompletes : Prop :=
  ∀ (s : State) (name : FmtId) (ch : Channel) (packed : Word) (d : FormatDescriptor) (c : BitFieldSpec),
    s.rom.wf = true → romAt s.rom name = some d → laneOf d.channels ch = c →
    exec (.decompose name ch packed) s = .next { s with responses := s.responses ++
      [⟨0x00000000, [BitVec.ofNat 32 (((packed.toNat >>> c.shift) &&& c.mask) * c.scale)]⟩] } ∧
    ((packed.toNat >>> c.shift) &&& c.mask) * c.scale ≤ 255

/-- 40_bitfield R90, R88: RECOMPOSE of a registered format completes with one pixel word that has no bit outside the channel's
field. The command and its packet are the spec's decision D27. -/
def Obligations.RecomposeCommandCompletes : Prop :=
  ∀ (s : State) (name : FmtId) (ch : Channel) (value : Component) (d : FormatDescriptor) (c : BitFieldSpec),
    s.rom.wf = true → romAt s.rom name = some d → laneOf d.channels ch = c →
    exec (.recompose name ch value) s = .next { s with responses := s.responses ++
      [⟨0x00000000, [BitVec.ofNat 32 ((value.toNat / c.scale) <<< c.shift)]⟩] } ∧
    ((value.toNat / c.scale) <<< c.shift) &&& (c.mask <<< c.shift) = (value.toNat / c.scale) <<< c.shift ∧
    (value.toNat / c.scale) <<< c.shift < 2 ^ d.wordWidth.bits

/-! ### The registry queries -/

/-- 41_registry R97. -/
def Obligations.SupportsIffRegistered : Prop :=
  (∀ (rom : Registry) (name : FmtId), supports rom name = true ↔ romAt rom name ≠ none) ∧
  (∀ name : FmtId, supports State.reset.rom name = true ↔ name.toNat ≤ 5)

/-- 41_registry R98: SUPPORTS completes in every state, with 1 or 0; an unregistered name is the answer 0, not an error (D40). -/
def Obligations.SupportsCommandCompletes : Prop :=
  ∀ (s : State) (name : FmtId),
    exec (.supports name) s = .next { s with responses := s.responses ++
      [⟨0x00000000, [if (romAt s.rom name).isSome then 1 else 0]⟩] }

/-- 41_registry R99, R100: SUPPORTS_ALL's packet, its completion in every state with the conjunction over the names, the empty case,
that order and repetition do not matter, and the two examples. -/
def Obligations.SupportsAllCommandCompletes : Prop :=
  (∀ ids : List FmtId,
    decode ⟨0x02000000, ids.map (fun id => id.setWidth 32)⟩ = .command (.supportsAll ids)) ∧
  (∀ (s : State) (names : List FmtId),
    exec (.supportsAll names) s = .next { s with responses := s.responses ++
      [⟨0x00000000, [if ∀ x ∈ names, romAt s.rom x ≠ none then 1 else 0]⟩] }) ∧
  (∀ s : State, exec (.supportsAll []) s = .next { s with responses := s.responses ++ [⟨0x00000000, [1]⟩] }) ∧
  (∀ (s : State) (names names' : List FmtId), (∀ x, x ∈ names ↔ x ∈ names') →
    exec (.supportsAll names) s = exec (.supportsAll names') s) ∧
  (∀ s : State, s.rom = State.reset.rom →
    exec (.supportsAll [0x01, 0x05]) s = .next { s with responses := s.responses ++ [⟨0x00000000, [1]⟩] })

/-- 41_registry R101, R102: LIST_SUPPORTED completes in every state with one name word per registered identifier; for a
well-formed registry the identifiers are the registered ones, in ascending order (the order is the spec's decision D8), and for the
default registry they are 0 to 5. -/
def Obligations.ListSupportedCommandCompletes : Prop :=
  (∀ s : State, exec .listSupported s = .next { s with responses := s.responses ++
      [⟨0x00000000, (listSupported s.rom).map (fun id => id.setWidth 32)⟩] }) ∧
  (∀ rom : Registry, rom.wf = true →
    (listSupported rom).Pairwise (fun x y => x.toNat < y.toNat) ∧ ∀ x, x ∈ listSupported rom ↔ romAt rom x ≠ none) ∧
  (∀ s : State, s.rom = State.reset.rom → exec .listSupported s = .next { s with responses := s.responses ++
      [⟨0x00000000, [0, 1, 2, 3, 4, 5]⟩] })

/-- 41_registry R103, R104: RESOLVE of a registered format completes with the thirteen words of its descriptor. The command and
its payload are the spec's decisions D25 and D27. -/
def Obligations.ResolveCommandCompletes : Prop :=
  ∀ (s : State) (name : FmtId) (w : WordWidth) (r g b a : BitFieldSpec),
    romAt s.rom name = some ⟨name, ⟨r, g, b, a⟩, w⟩ →
    exec (.resolve name) s = .next { s with responses := s.responses ++ [⟨0x00000000,
      [if w = .w16 then 16 else 32,
       BitVec.ofNat 32 r.shift, BitVec.ofNat 32 r.mask, BitVec.ofNat 32 r.scale,
       BitVec.ofNat 32 g.shift, BitVec.ofNat 32 g.mask, BitVec.ofNat 32 g.scale,
       BitVec.ofNat 32 b.shift, BitVec.ofNat 32 b.mask, BitVec.ofNat 32 b.scale,
       BitVec.ofNat 32 a.shift, BitVec.ofNat 32 a.mask, BitVec.ofNat 32 a.scale]⟩] }

/-- 41_registry R106, for any registry (the spec marks it derived). -/
def Obligations.RegistryQueriesAgree : Prop :=
  ∀ rom : Registry,
    (∀ xs ys, supportsAll rom (xs ++ ys) = (supportsAll rom xs && supportsAll rom ys)) ∧
    (∀ x, supportsAll rom [x] = supports rom x) ∧
    (∀ x, supports rom x = true ↔ ∃ d, resolve rom x = .ok d) ∧
    (∀ x, supports rom x = false ↔ resolve rom x = .error .unknownFormat) ∧
    (∀ x, supports rom x = true ↔ x ∈ listSupported rom) ∧
    supportsAll rom (listSupported rom) = true

/-! ### The pixel codec -/

/-- 42_codec R108, R109: DECODE's packet, its completion with the four lanes in R, G, B, A order (bits above the format's width have no
effect), its error on an unregistered format, and the source's example. -/
def Obligations.DecodeCommandCompletes : Prop :=
  (∀ (packed : Word) (name : FmtId),
    decode ⟨0x07000000 ||| name.setWidth 32 <<< 16, [packed]⟩ = .command (.decode packed name)) ∧
  (∀ (s : State) (packed : Word) (name : FmtId) (d : FormatDescriptor), s.rom.wf = true → romAt s.rom name = some d →
    exec (.decode packed name) s = .next { s with responses := s.responses ++ [⟨0x00000000,
      [d.channels.r, d.channels.g, d.channels.b, d.channels.a].map fun c =>
        BitVec.ofNat 32 (((packed.toNat >>> c.shift) &&& c.mask) * c.scale)⟩] }) ∧
  (∀ (s : State) (packed : Word) (name : FmtId), romAt s.rom name = none →
    exec (.decode packed name) s = .next { s with responses := s.responses ++
      [⟨0x00000001, (listSupported s.rom).map (fun id => id.setWidth 32)⟩] }) ∧
  (∀ s : State, s.rom = State.reset.rom →
    exec (.decode 0x0000FFFF 0x00) s = .next { s with responses := s.responses ++
      [⟨0x00000000, [0x000000F0, 0x000000F0, 0x000000F0, 0x000000F0]⟩] })

/-- 42_codec R110 (a) to (c): zero decodes to zeros, every lane is a multiple of its scale and at most mask times scale, the all-ones
words of the default table (D4, D5), and bits 31:16 of a 16-bit format's word have no effect. -/
def Obligations.DecodeRangeAndIgnoredBits : Prop :=
  (∀ d : FormatDescriptor, unpackPixel d 0 = ⟨0, 0, 0, 0⟩) ∧
  (∀ (d : FormatDescriptor) (p : Nat) (ch : Channel),
    (laneOf d.channels ch).scale ∣ laneOf (unpackPixel d p) ch ∧
    laneOf (unpackPixel d p) ch ≤ (laneOf d.channels ch).mask * (laneOf d.channels ch).scale) ∧
  State.reset.rom.entries.map (fun d => unpackPixel d (2 ^ d.wordWidth.bits - 1)) =
    [⟨240, 240, 240, 240⟩, ⟨248, 248, 248, 255⟩, ⟨248, 248, 248, 255⟩,
     ⟨255, 255, 255, 255⟩, ⟨255, 255, 255, 255⟩, ⟨255, 255, 255, 255⟩] ∧
  (∀ (s : State) (packed : Word) (name : FmtId) (d : FormatDescriptor), romAt s.rom name = some d → d.wordWidth = .w16 →
    exec (.decode packed name) s = exec (.decode (packed &&& 0x0000FFFF) name) s)

/-- 42_codec R111, R112: ENCODE's packet, its completion on four components with the OR of the four recomposes, its two errors, and the
corner cases and example of R112. -/
def Obligations.EncodeCommandCompletes : Prop :=
  (∀ (cs : List Component) (name : FmtId),
    decode ⟨0x08000000 ||| name.setWidth 32 <<< 16, cs.map (fun c => c.setWidth 32)⟩ = .command (.encode cs name)) ∧
  (∀ (s : State) (r g b a : Component) (name : FmtId) (d : FormatDescriptor), romAt s.rom name = some d →
    exec (.encode [r, g, b, a] name) s = .next { s with responses := s.responses ++ [⟨0x00000000, [BitVec.ofNat 32
      ((r.toNat / d.channels.r.scale) <<< d.channels.r.shift ||| (g.toNat / d.channels.g.scale) <<< d.channels.g.shift |||
       (b.toNat / d.channels.b.scale) <<< d.channels.b.shift ||| (a.toNat / d.channels.a.scale) <<< d.channels.a.shift)]⟩] }) ∧
  (∀ (s : State) (cs : List Component) (name : FmtId), romAt s.rom name = none →
    exec (.encode cs name) s = .next { s with responses := s.responses ++
      [⟨0x00000001, (listSupported s.rom).map (fun id => id.setWidth 32)⟩] }) ∧
  (∀ (s : State) (cs : List Component) (name : FmtId) (d : FormatDescriptor), romAt s.rom name = some d → cs.length ≠ 4 →
    exec (.encode cs name) s = .next { s with responses := s.responses ++ [⟨0x00000003, []⟩] }) ∧
  (∀ (c : BitFieldSpec) (v : Nat), v < c.scale → recompose c v = 0) ∧
  (∀ (s : State), s.rom = State.reset.rom → ∀ d ∈ s.rom.entries,
    exec (.encode [0xFF, 0xFF, 0xFF, 0xFF] d.name) s = .next { s with responses := s.responses ++
      [⟨0x00000000, [BitVec.ofNat 32 (2 ^ d.wordWidth.bits - 1)]⟩] } ∧
    exec (.encode [0, 0, 0, 0] d.name) s = .next { s with responses := s.responses ++ [⟨0x00000000, [0]⟩] }) ∧
  (∀ s : State, s.rom = State.reset.rom →
    exec (.encode [0xFF, 0, 0, 0xFF] 0x05) s = .next { s with responses := s.responses ++ [⟨0x00000000, [0xFFFF0000]⟩] })

/-- 42_codec R113: a count other than four is rejected for every registered format, neither truncated nor padded. -/
def Obligations.EncodeRejectsEveryOtherCount : Prop :=
  ∀ (s : State) (cs : List Component) (name : FmtId), supports s.rom name = true → cs.length ≠ 4 →
    exec (.encode cs name) s = .next { s with responses := s.responses ++ [⟨0x00000003, []⟩] }

/-- 42_codec R114 (the spec marks it derived): the OR stays below the word's width, is the sum of the four partial words, and each
field holds exactly the quotient. -/
def Obligations.EncodedFieldsHoldTheQuotients : Prop :=
  ∀ d : FormatDescriptor, d.wf = true → ∀ r g b a : Nat, r ≤ 255 → g ≤ 255 → b ≤ 255 → a ≤ 255 →
    packPixel d ⟨r, g, b, a⟩ < 2 ^ d.wordWidth.bits ∧
    packPixel d ⟨r, g, b, a⟩ = recompose d.channels.r r + recompose d.channels.g g + recompose d.channels.b b +
      recompose d.channels.a a ∧
    ∀ ch : Channel, (packPixel d ⟨r, g, b, a⟩ >>> (laneOf d.channels ch).shift) &&& (laneOf d.channels ch).mask =
      laneOf ⟨r, g, b, a⟩ ch / (laneOf d.channels ch).scale

/-- 40_bitfield R93 (the spec marks it derived): decode then encode gives back every packed value confined to the bits its format
uses, for every well-formed descriptor, and every packed value of the width for the default table (D4, D5). -/
def Obligations.PixelRoundTrip : Prop :=
  (∀ d : FormatDescriptor, d.wf = true → ∀ v : Nat,
    v &&& (d.channels.r.mask <<< d.channels.r.shift ||| d.channels.g.mask <<< d.channels.g.shift |||
      d.channels.b.mask <<< d.channels.b.shift ||| d.channels.a.mask <<< d.channels.a.shift) = v →
    packPixel d (unpackPixel d v) = v) ∧
  (∀ d ∈ State.reset.rom.entries, ∀ v < 2 ^ d.wordWidth.bits, packPixel d (unpackPixel d v) = v)

/-- 40_bitfield R94 (the spec marks it derived): encode then decode rounds every component down to a multiple of its scale. -/
def Obligations.ComponentRoundTripRoundsDown : Prop :=
  ∀ d : FormatDescriptor, d.wf = true → ∀ r g b a : Nat, r ≤ 255 → g ≤ 255 → b ≤ 255 → a ≤ 255 → ∀ ch : Channel,
    laneOf (unpackPixel d (packPixel d ⟨r, g, b, a⟩)) ch =
      laneOf ⟨r, g, b, a⟩ ch - laneOf ⟨r, g, b, a⟩ ch % (laneOf d.channels ch).scale

/-! ### The converter pipeline -/

/-- 43_pipeline R119 (and R120's packet): CONVERT's packet, its completion with one encoded word per pixel, in order, its one error, and the source's
example. -/
def Obligations.ConvertCommandCompletes : Prop :=
  (∀ (pixels : List Word) (source target : FmtId),
    decode ⟨0x09000000 ||| source.setWidth 32 <<< 16 ||| target.setWidth 32 <<< 8, pixels⟩ =
      .command (.convert pixels source target)) ∧
  (∀ (s : State) (pixels : List Word) (source target : FmtId) (f t : FormatDescriptor), s.rom.wf = true →
    romAt s.rom source = some f → romAt s.rom target = some t →
    exec (.convert pixels source target) s = .next { s with responses := s.responses ++ [⟨0x00000000, pixels.map fun p =>
      BitVec.ofNat 32
        (((((p.toNat >>> f.channels.r.shift) &&& f.channels.r.mask) * f.channels.r.scale) / t.channels.r.scale) <<< t.channels.r.shift |||
         ((((p.toNat >>> f.channels.g.shift) &&& f.channels.g.mask) * f.channels.g.scale) / t.channels.g.scale) <<< t.channels.g.shift |||
         ((((p.toNat >>> f.channels.b.shift) &&& f.channels.b.mask) * f.channels.b.scale) / t.channels.b.scale) <<< t.channels.b.shift |||
         ((((p.toNat >>> f.channels.a.shift) &&& f.channels.a.mask) * f.channels.a.scale) / t.channels.a.scale) <<< t.channels.a.shift)⟩] }) ∧
  (∀ (s : State) (pixels : List Word) (source target : FmtId), romAt s.rom source = none ∨ romAt s.rom target = none →
    exec (.convert pixels source target) s = .next { s with responses := s.responses ++ [⟨0x00000002, []⟩] }) ∧
  (∀ s : State, s.rom = State.reset.rom →
    exec (.convert [0x00000000] 0x01 0x05) s = .next { s with responses := s.responses ++ [⟨0x00000000, [0x00000000]⟩] })

/-- 43_pipeline R122, R123: one function of a single pixel serves every sequence, so length, index order, concatenation and
independence of the other pixels follow (in part derived by the spec). -/
def Obligations.ConvertIsOneFunctionPerPixel : Prop :=
  ∀ (rom : Registry) (source target : FmtId), supports rom source = true → supports rom target = true →
    ∃ g : Word → Word, ∀ (s : State) (pixels : List Word), s.rom = rom →
      exec (.convert pixels source target) s = .next { s with responses := s.responses ++ [⟨0x00000000, pixels.map g⟩] }

/-- 30_encoding R83, 43_pipeline R119: for registered formats CONVERT of a pixel answers what ENCODE answers when it is given the four
components DECODE answered. -/
def Obligations.ConvertIsDecodeThenEncode : Prop :=
  ∀ (s : State) (pixel : Word) (source target : FmtId), s.rom.wf = true →
    supports s.rom source = true → supports s.rom target = true →
    ∃ (r g b a : Component) (out : Word),
      exec (.decode pixel source) s = .next { s with responses := s.responses ++
        [⟨0x00000000, [r.setWidth 32, g.setWidth 32, b.setWidth 32, a.setWidth 32]⟩] } ∧
      exec (.encode [r, g, b, a] target) s = .next { s with responses := s.responses ++ [⟨0x00000000, [out]⟩] } ∧
      exec (.convert [pixel] source target) s = .next { s with responses := s.responses ++ [⟨0x00000000, [out]⟩] }

/-- 43_pipeline R124, of the default registry (D3, D4, D5): converting a format to itself gives the pixels back, a 16-bit format's words
with bits 31:16 cleared. -/
def Obligations.ConvertToTheSameFormatIsIdentity : Prop :=
  ∀ (s : State) (pixels : List Word) (d : FormatDescriptor), s.rom = State.reset.rom → d ∈ s.rom.entries →
    exec (.convert pixels d.name d.name) s = .next { s with responses := s.responses ++
      [⟨0x00000000, pixels.map fun p => if d.wordWidth = .w16 then p &&& 0x0000FFFF else p⟩] }

/-- 43_pipeline R125 (the spec marks it derived): the raw field CONVERT writes into each channel. -/
def Obligations.ConvertedChannelIsTheScaledQuotient : Prop :=
  ∀ (s : State) (pixel : Word) (source target : FmtId) (f t : FormatDescriptor), s.rom.wf = true →
    romAt s.rom source = some f → romAt s.rom target = some t →
    ∃ out : Word,
      exec (.convert [pixel] source target) s = .next { s with responses := s.responses ++ [⟨0x00000000, [out]⟩] } ∧
      ∀ (ch : Channel) (c e : BitFieldSpec), laneOf f.channels ch = c → laneOf t.channels ch = e →
        (out.toNat >>> e.shift) &&& e.mask = (((pixel.toNat >>> c.shift) &&& c.mask) * c.scale) / e.scale

/-! ### Errors, frames and independence -/

/-- 60_exceptions R129: who raises UnknownFormat and exactly when, and that its response enumerates the supported identifiers. -/
def Obligations.UnknownFormatExactlyWhenUnresolved : Prop :=
  (∀ (i : Instr) (s : State), ∃ r : Response,
    exec i s = .next { s with responses := s.responses ++ [r] } ∧
    (r.status = 0x00000001 ↔
      ∃ name : FmtId, romAt s.rom name = none ∧
        (i = .resolve name ∨ (∃ ch p, i = .decompose name ch p) ∨ (∃ ch v, i = .recompose name ch v) ∨
         (∃ p, i = .decode p name) ∨ (∃ cs, i = .encode cs name))) ∧
    (r.status = 0x00000001 → r.payload = (listSupported s.rom).map (fun id => id.setWidth 32))) ∧
  (listSupported State.reset.rom).map (fun id => id.setWidth 32) = [0x00000000, 0x00000001, 0x00000002, 0x00000003,
    0x00000004, (0x00000005 : Word)]

/-- 60_exceptions R130: UnsupportedFormatPair is raised by CONVERT only, for one or both identifiers unregistered, with no payload. -/
def Obligations.UnsupportedPairExactlyWhenUnregistered : Prop :=
  ∀ (i : Instr) (s : State), ∃ r : Response,
    exec i s = .next { s with responses := s.responses ++ [r] } ∧
    (r.status = 0x00000002 ↔
      ∃ pixels source target, i = .convert pixels source target ∧
        (romAt s.rom source = none ∨ romAt s.rom target = none)) ∧
    (r.status = 0x00000002 → r.payload = [])

/-- 60_exceptions R128, R132: ComponentCountMismatch is raised by ENCODE only (so not inside CONVERT), when the payload length is not four,
with no payload. When the format is unregistered as well, UnknownFormat is reported (R133, the spec's decision D30). -/
def Obligations.CountMismatchExactlyWhenNotFour : Prop :=
  ∀ (i : Instr) (s : State), ∃ r : Response,
    exec i s = .next { s with responses := s.responses ++ [r] } ∧
    (r.status = 0x00000003 ↔
      ∃ cs name, i = .encode cs name ∧ romAt s.rom name ≠ none ∧ cs.length ≠ 4) ∧
    (r.status = 0x00000003 → r.payload = [])

/-- 70_reset R158, 60_exceptions R136, 30_encoding R71, R72: every command, in every state, completes with exactly one response, of one
of the four legal shapes, and changes nothing else. -/
def Obligations.EveryCommandCompletesWithOneResponse : Prop :=
  ∀ (i : Instr) (s : State), ∃ r : Response,
    exec i s = .next { s with responses := s.responses ++ [r] } ∧ Response.legal s.rom r

/-- 10_state R33: "No command writes anything that outlives its own response." The frame of all nine commands. -/
def Obligations.NoCommandWritesAnythingElse : Prop :=
  ∀ (i : Instr) (s t : State), exec i s = .next t →
    t.rom = s.rom ∧ t.maxLen = s.maxLen ∧ t.commands = s.commands ∧
    (∀ id : FmtId, romAt t.rom id = romAt s.rom id) ∧ ∃ r : Response, t.responses = s.responses ++ [r]

/-- 10_state R15, 20_memory R54 (the spec marks them derived and D17): the response is a function of the command and the registry
alone, whatever else is pending or has been answered. -/
def Obligations.ResponseDependsOnCommandAndRegistryAlone : Prop :=
  ∀ (i : Instr) (s t : State), s.rom = t.rom → ∃ r : Response,
    exec i s = .next { s with responses := s.responses ++ [r] } ∧
    exec i t = .next { t with responses := t.responses ++ [r] }

/-! ### Encoding -/

/-- 30_encoding R63 to R66, R74, R75 (the spec's decisions D20 to D23): decoding the packet of a command gives the command back, with
every operand at every value; and a block accepts that packet exactly when the command is well-formed for its `MAX_LEN` (D16). -/
def Obligations.DecodeOfEncode : Prop :=
  (∀ i : Instr, decode (encode i) = .command i) ∧
  (∀ (maxLen : Option Nat) (i : Instr), accept maxLen (encode i) =
    if i.wf maxLen = true then .command i else .reserved .payloadTooLong)

/-- 30_encoding R65, R66, R75: a packet decodes to at most the one command whose packet it is: no bit of an accepted packet is
ignored by the decoder. -/
def Obligations.EncodeOfDecode : Prop := ∀ (p : Packet) (i : Instr), decode p = .command i → encode i = p

/-- 30_encoding R66, R69, R70, R75 to R78 (the spec's decisions D22, D26): the decoder accepts a packet exactly when some row of the
opcode table selects its header, its payload length is legal there, and its component or name words are below 256; and it calls
the opcode reserved exactly for `op` 0x00 and 0x0A to 0xFF. The rows are those of spec/opcode_table.json: mask, match, the only legal
length if there is one, whether the payload words must be below 256. -/
def Obligations.DecoderAcceptsExactlyTheTable : Prop :=
  ∀ p : Packet,
    ((∃ i, decode p = .command i) ↔
      ∃ row ∈ ([(0xFF00FFFF, 0x01000000, some 0, false), (0xFFFFFFFF, 0x02000000, none, true),
                (0xFFFFFFFF, 0x03000000, some 0, false), (0xFF00FFFF, 0x04000000, some 0, false),
                (0xFF00FFFC, 0x05000000, some 1, false), (0xFF00FFFC, 0x06000000, some 1, true),
                (0xFF00FFFF, 0x07000000, some 1, false), (0xFF00FFFF, 0x08000000, none, true),
                (0xFF0000FF, 0x09000000, none, false)] : List (Word × Word × Option Nat × Bool)),
        p.header &&& row.1 = row.2.1 ∧ (∀ n, row.2.2.1 = some n → p.payload.length = n) ∧
        (row.2.2.2 = true → ∀ w ∈ p.payload, w.toNat < 256)) ∧
    (decode p = .reserved .opcode ↔ p.header.toNat / 2 ^ 24 = 0 ∨ 10 ≤ p.header.toNat / 2 ^ 24)

/-- 30_encoding R82, 95_test_vectors: packets written out bit by bit from the encoding decode to the commands they stand for, one of
each family (a sanity statement; the encodings are the spec's decisions D20 to D23). -/
def Obligations.WrittenPacketsDecode : Prop :=
  decode ⟨0x01050000, []⟩ = .command (.supports 0x05) ∧
  decode ⟨0x05000001, [0x0000ABCD]⟩ = .command (.decompose 0x00 .g 0x0000ABCD) ∧
  decode ⟨0x06010000, [0x000000FF]⟩ = .command (.recompose 0x01 .r 0xFF) ∧
  decode ⟨0x08050000, [0x000000FF, 0x00000000, 0x00000000, 0x000000FF]⟩ = .command (.encode [0xFF, 0, 0, 0xFF] 0x05) ∧
  decode ⟨0x09010500, [0x00000000]⟩ = .command (.convert [0x00000000] 0x01 0x05)

/-! ### The step and whole runs -/

/-- 20_memory R54, 30_encoding R61, R62 (decisions D17, D20): when the oldest pending packet decodes to a command within `MAX_LEN`, a step
of a block with a well-formed registry is that command's `exec`, on the state without that packet. -/
def Obligations.StepRunsTheOldestCommand : Prop :=
  ∀ (s : State) (p : Packet) (rest : List Packet) (i : Instr), s.rom.wf = true → s.commands = p :: rest →
    decode p = .command i → (∀ m, s.maxLen = some m → p.payload.length ≤ m) →
    step s = exec i { s with commands := rest }

/-- 30_encoding R78 (decisions D16, D26): a step refuses a reserved packet by its ground, and a payload longer than `MAX_LEN`; it answers
neither with a value nor with an error code. Which ground the refusal names is the model's choice: the first that fails in R75's order
(log 5), and `MAX_LEN` only after those, so a packet both reserved and too long is refused by its R75 ground (log 2). -/
def Obligations.StepRefusesReservedPackets : Prop :=
  (∀ (s : State) (p : Packet) (rest : List Packet) (why : Reserved), s.rom.wf = true → s.commands = p :: rest →
    decode p = .reserved why → step s = .refused (.reserved why)) ∧
  (∀ (s : State) (p : Packet) (rest : List Packet) (i : Instr) (m : Nat), s.rom.wf = true → s.commands = p :: rest →
    decode p = .command i → s.maxLen = some m → m < p.payload.length →
    step s = .refused (.reserved .payloadTooLong))

/-- 70_reset R150 (decision D35): a block whose registry fails a check is refused, not run, whatever is pending. That the refusal is
the outcome of every step, and that it also meets a list out of ascending order or with a repeated name, a check R150 and D35 do not
have, is the model's choice (log 6). -/
def Obligations.StepRefusesAnIllFormedRegistry : Prop :=
  ∀ s : State, s.rom.wf = false → step s = .refused .illFormedRegistry

/-- 70_reset R148: the block waits while no command is pending. That waiting is a step that changes nothing is the model's choice
(log 4). -/
def Obligations.StepWaitsForACommand : Prop :=
  ∀ s : State, s.rom.wf = true → s.commands = [] → step s = .next s

/-- The model's convention for opcode-table rows (log 7): the packet `withFetchWord` places is the next one a step runs. -/
def Obligations.StepRunsTheFetchWord : Prop :=
  ∀ (s : State) (nbits w : Nat) (i : Instr), s.rom.wf = true → s.maxLen = none → decodeTableWord nbits w = some i →
    step (s.withFetchWord nbits w) = exec i s

/-- 00_scope R9: "No parameter changes at run time." Neither the registry nor `MAX_LEN`, whatever the step does. -/
def Obligations.NoParameterChangesAtRunTime : Prop :=
  ∀ s t : State, step s = .next t → t.rom = s.rom ∧ t.maxLen = s.maxLen

/-- 70_reset R150, 30_encoding R72, R73: every step, from every state that meets the invariant, keeps it: the registry stays
well-formed and every response ever given is of a legal shape. -/
def Obligations.StepKeepsTheInvariant : Prop := ∀ s t : State, s.Inv → step s = .next t → t.Inv

/-- 20_memory R54, 70_reset R158, R160: from any state with a well-formed registry whose pending commands are all accepted, as many steps
as commands are pending end without a refusal, with every command taken and exactly one response each, in the order of the
commands; and each response is the one its command gets when it is the only one ever issued. -/
def Obligations.RunAnswersEveryCommandInOrder : Prop :=
  ∀ s : State, s.rom.wf = true → s.allAccepted = true → ∃ rs : List Response,
    Host.Core.run Sys2Proof.core s.commands.length s =
      .next { s with commands := [], responses := s.responses ++ rs } ∧
    List.Forall₂ (fun p r => step (s.alone p) = .next { s.alone p with commands := [], responses := [r] }) s.commands rs

/-- 60_exceptions R138, R139 (decision D31): an error does not stick: the command after any command, failed or not, gets the response it
would have got otherwise. -/
def Obligations.ErrorsDoNotStick : Prop :=
  ∀ (i j : Instr) (s t : State), exec i s = .next t → ∃ r : Response,
    exec j s = .next { s with responses := s.responses ++ [r] } ∧
    exec j t = .next { t with responses := t.responses ++ [r] }

/-! ### The host's byte layouts -/

/-- 20_memory R46: pixel words are assembled little-endian, two or four bytes each. -/
def Obligations.PixelsAreReadLittleEndian : Prop :=
  (∀ b0 b1 : Byte, (word16OfBytes b0 b1).toNat = b0.toNat + 2 ^ 8 * b1.toNat) ∧
  (∀ b0 b1 b2 b3 : Byte, (word32OfBytes b0 b1 b2 b3).toNat =
    b0.toNat + 2 ^ 8 * b1.toNat + 2 ^ 16 * b2.toNat + 2 ^ 24 * b3.toNat) ∧
  (∀ (b0 b1 : Byte) (rest : List Byte) (ws : List Word), pixelsOfBytes .w16 rest = some ws →
    pixelsOfBytes .w16 (b0 :: b1 :: rest) = some (word16OfBytes b0 b1 :: ws)) ∧
  (∀ (b0 b1 b2 b3 : Byte) (rest : List Byte) (ws : List Word), pixelsOfBytes .w32 rest = some ws →
    pixelsOfBytes .w32 (b0 :: b1 :: b2 :: b3 :: rest) = some (word32OfBytes b0 b1 b2 b3 :: ws)) ∧
  (pixelsOfBytes .w16 [] = some [] ∧ pixelsOfBytes .w32 [] = some [])

/-- 20_memory R49, R50: a texture file is its header words little-endian and then its pixels, 16-bit ones little-endian, 32-bit ones
big-endian; so a 32-bit pixel read and written unchanged has its four bytes reversed, a 16-bit one has not. -/
def Obligations.TexturePixelByteOrder : Prop :=
  (∀ b0 b1 : Byte, pixelBytes .w16 (word16OfBytes b0 b1) = [b0, b1]) ∧
  (∀ b0 b1 b2 b3 : Byte, pixelBytes .w32 (word32OfBytes b0 b1 b2 b3) = [b3, b2, b1, b0]) ∧
  (∀ (t : FormatDescriptor) (width height : Word) (pixels : List Word), ∃ tags : List Byte,
    textureBytes t width height pixels =
      le32Bytes width ++ le32Bytes height ++ tags ++ pixels.flatMap (pixelBytes t.wordWidth))

/-- 20_memory R47: the four header fields are read at 0x0A, 0x0E, 0x12 and 0x16, little-endian. -/
def Obligations.BitmapHeaderLayout : Prop :=
  ∀ (before after : List Byte) (start size width height : Word), before.length = 10 →
    readBitmapHeader (before ++ le32Bytes start ++ le32Bytes size ++ le32Bytes width ++ le32Bytes height ++ after) =
      some ⟨start, size, width, height⟩
end

