-- ==== Sys2Proof/Laws/State.lean ====
section
/-! SUPPORT. One lemma per field per update of the state, so that no proof unfolds a record update. -/

namespace Sys2Proof.Machine

@[simp] theorem State.answer_rom (s : State) (r : Response) : (s.answer r).rom = s.rom := rfl
@[simp] theorem State.answer_maxLen (s : State) (r : Response) : (s.answer r).maxLen = s.maxLen := rfl
@[simp] theorem State.answer_commands (s : State) (r : Response) : (s.answer r).commands = s.commands := rfl
@[simp] theorem State.answer_responses (s : State) (r : Response) :
    (s.answer r).responses = s.responses ++ [r] := rfl

@[simp] theorem State.respond_rom (s : State) (ws : List Word) : (s.respond ws).rom = s.rom := rfl
@[simp] theorem State.respond_maxLen (s : State) (ws : List Word) : (s.respond ws).maxLen = s.maxLen := rfl
@[simp] theorem State.respond_commands (s : State) (ws : List Word) : (s.respond ws).commands = s.commands := rfl
@[simp] theorem State.respond_responses (s : State) (ws : List Word) :
    (s.respond ws).responses = s.responses ++ [⟨statusOk, ws⟩] := rfl

@[simp] theorem State.raise_rom (s : State) (e : ErrorKind) : (s.raise e).rom = s.rom := rfl
@[simp] theorem State.raise_maxLen (s : State) (e : ErrorKind) : (s.raise e).maxLen = s.maxLen := rfl
@[simp] theorem State.raise_commands (s : State) (e : ErrorKind) : (s.raise e).commands = s.commands := rfl
@[simp] theorem State.raise_responses (s : State) (e : ErrorKind) :
    (s.raise e).responses = s.responses ++ [⟨e.status, errorPayload s.rom e⟩] := rfl

@[simp] theorem State.issue_rom (s : State) (p : Packet) : (s.issue p).rom = s.rom := rfl
@[simp] theorem State.issue_maxLen (s : State) (p : Packet) : (s.issue p).maxLen = s.maxLen := rfl
@[simp] theorem State.issue_commands (s : State) (p : Packet) : (s.issue p).commands = s.commands ++ [p] := rfl
@[simp] theorem State.issue_responses (s : State) (p : Packet) : (s.issue p).responses = s.responses := rfl

@[simp] theorem State.takeResponses_fst (s : State) : s.takeResponses.1 = s.responses := rfl
@[simp] theorem State.takeResponses_rom (s : State) : s.takeResponses.2.rom = s.rom := rfl
@[simp] theorem State.takeResponses_maxLen (s : State) : s.takeResponses.2.maxLen = s.maxLen := rfl
@[simp] theorem State.takeResponses_commands (s : State) : s.takeResponses.2.commands = s.commands := rfl
@[simp] theorem State.takeResponses_responses (s : State) : s.takeResponses.2.responses = [] := rfl

@[simp] theorem State.withFetchWord_rom (s : State) (nbits w : Nat) : (s.withFetchWord nbits w).rom = s.rom := rfl
@[simp] theorem State.withFetchWord_maxLen (s : State) (nbits w : Nat) :
    (s.withFetchWord nbits w).maxLen = s.maxLen := rfl
@[simp] theorem State.withFetchWord_commands (s : State) (nbits w : Nat) :
    (s.withFetchWord nbits w).commands = tablePacket nbits w :: s.commands := rfl
@[simp] theorem State.withFetchWord_responses (s : State) (nbits w : Nat) :
    (s.withFetchWord nbits w).responses = s.responses := rfl

end Sys2Proof.Machine
end

