-- ==== Sys2Proof/Laws/Ops.lean ====
section
/-! SUPPORT. What each shared operation can do, said once: the registry read, the end of a command, taking a command, and
accepting a packet. -/

namespace Sys2Proof.Machine

/-! The registry read. -/

theorem romAt_some_mem {rom : Registry} {id : FmtId} {d : FormatDescriptor} (h : romAt rom id = some d) :
    d ∈ rom.entries ∧ d.name = id :=
  ⟨List.mem_of_find?_eq_some h, by simpa using List.find?_some h⟩

theorem romAt_eq_none_iff {rom : Registry} {id : FmtId} :
    romAt rom id = none ↔ ∀ d ∈ rom.entries, d.name ≠ id := by
  simp [romAt]

theorem supports_iff_mem (rom : Registry) (id : FmtId) : supports rom id = true ↔ id ∈ listSupported rom := by
  simp [supports, romAt, listSupported]

theorem resolve_some {rom : Registry} {id : FmtId} {d : FormatDescriptor} (h : romAt rom id = some d) :
    resolve rom id = .ok d := by
  simp [resolve, h]

theorem resolve_none {rom : Registry} {id : FmtId} (h : romAt rom id = none) :
    resolve rom id = .error .unknownFormat := by
  simp [resolve, h]

/-! The end of a command. -/

@[simp] theorem State.complete_ok (s : State) (ws : List Word) : s.complete (.ok ws) = .next (s.respond ws) := rfl
@[simp] theorem State.complete_error (s : State) (e : ErrorKind) : s.complete (.error e) = .next (s.raise e) := rfl

/-- A command whose function returned `ws` completes with the OK response that carries it. -/
theorem State.complete_of_ok {s : State} {res : Except ErrorKind (List Word)} {ws : List Word} (h : res = .ok ws) :
    s.complete res = .next { s with responses := s.responses ++ [⟨0x00000000, ws⟩] } := by
  subst h; rfl

/-- A command that raised `e` completes with the error's response. -/
theorem State.complete_of_error {s : State} {res : Except ErrorKind (List Word)} {e : ErrorKind} (h : res = .error e) :
    s.complete res = .next { s with responses := s.responses ++ [⟨e.status, errorPayload s.rom e⟩] } := by
  subst h; rfl

/-- The response a command's result is turned into. -/
def responseOf (rom : Registry) : Except ErrorKind (List Word) → Response
  | .ok ws => ⟨statusOk, ws⟩
  | .error e => ⟨e.status, errorPayload rom e⟩

/-- `State.complete` answers a next state always, and changes nothing but the list of responses. -/
theorem State.complete_eq (s : State) (res : Except ErrorKind (List Word)) :
    s.complete res = .next (s.answer (responseOf s.rom res)) := by
  cases res <;> rfl

theorem responseOf_legal (rom : Registry) (res : Except ErrorKind (List Word)) :
    Response.legal rom (responseOf rom res) := by
  rcases res with e | ws
  · cases e <;> simp [Response.legal, responseOf, ErrorKind.status, errorPayload]
  · exact .inl rfl

/-! Taking and accepting a command. -/

@[simp] theorem State.takeCommand_nil {s : State} (h : s.commands = []) : s.takeCommand = none := by
  simp [State.takeCommand, h]

@[simp] theorem State.takeCommand_cons {s : State} {p : Packet} {rest : List Packet} (h : s.commands = p :: rest) :
    s.takeCommand = some (p, { s with commands := rest }) := by
  simp [State.takeCommand, h]

theorem accept_command_iff {maxLen : Option Nat} {p : Packet} {i : Instr} :
    accept maxLen p = .command i ↔ decode p = .command i ∧ withinMaxLen maxLen p.payload.length = true := by
  unfold accept
  split
  · simp [*]
  · split <;> simp_all

end Sys2Proof.Machine
end

