-- ==== Sys2Proof/Laws/WellFormed.lean ====
section
/-! SUPPORT. What the checks on a registry give a proof: every mask is a run of at most eight low-order ones. -/

namespace Sys2Proof

/-- A run of low-order ones is `2 ^ w - 1` for its bit width `w`. -/
theorem contiguous_eq_two_pow {m : Nat} (hm : 0 < m) (h : m &&& (m + 1) = 0) : m = 2 ^ bitwidth m - 1 := by
  have hp : (m + 1).isPowerOfTwo := by
    rw [← Nat.and_sub_one_eq_zero_iff_isPowerOfTwo (by omega), Nat.add_sub_cancel, Nat.and_comm]
    exact h
  obtain ⟨k, hk⟩ := hp
  have hlog : m.log2 + 1 = k := by
    have hlt : m.log2 < k := (Nat.log2_lt (by omega)).2 (by omega)
    have hge : ¬ m.log2 < k - 1 := by
      rw [Nat.log2_lt (by omega)]
      have : 2 ^ k = 2 * 2 ^ (k - 1) := by rw [← Nat.pow_succ']; congr 1; omega
      omega
    omega
  rw [bitwidth, hlog]
  omega

theorem bitwidth_le_eight {m : Nat} (hm : 0 < m) (h : m < 256) : bitwidth m ≤ 8 :=
  (Nat.log2_lt (by omega)).2 (by omega : m < 2 ^ 8)

/-- The conditions `BitFieldSpec.wf` checks, as propositions. -/
structure BitFieldSpec.Fits (w : WordWidth) (c : BitFieldSpec) : Prop where
  mask_pos : 0 < c.mask
  mask_eq : c.mask = 2 ^ bitwidth c.mask - 1
  width_le : bitwidth c.mask ≤ 8
  in_word : c.shift + bitwidth c.mask ≤ w.bits
  scale_pos : 0 < c.scale
  value_le : c.mask * c.scale ≤ 255
  raw_le : 255 / c.scale ≤ c.mask

theorem BitFieldSpec.fits_of_wf {w : WordWidth} {c : BitFieldSpec} (h : c.wf w = true) : c.Fits w := by
  simp only [BitFieldSpec.wf, BitFieldSpec.contiguousMask, BitFieldSpec.inWord, BitFieldSpec.scaleFits,
    Bool.and_eq_true, decide_eq_true_eq, beq_iff_eq] at h
  obtain ⟨⟨⟨hpos, hrun⟩, hin⟩, ⟨hs, hv⟩, hr⟩ := h
  have hlt : c.mask < 256 := Nat.lt_succ_of_le (le_trans (Nat.le_mul_of_pos_right _ hs) hv)
  exact ⟨hpos, contiguous_eq_two_pow hpos hrun, bitwidth_le_eight hpos hlt, hin, hs, hv, hr⟩

/-- The four specs of a well-formed descriptor fit its word. -/
theorem FormatDescriptor.channels_fit {d : FormatDescriptor} (h : d.wf = true) :
    d.channels.r.Fits d.wordWidth ∧ d.channels.g.Fits d.wordWidth ∧ d.channels.b.Fits d.wordWidth ∧
      d.channels.a.Fits d.wordWidth := by
  simp only [FormatDescriptor.wf, Bool.and_eq_true] at h
  obtain ⟨⟨⟨⟨hr, hg⟩, hb⟩, ha⟩, -⟩ := h
  exact ⟨BitFieldSpec.fits_of_wf hr, BitFieldSpec.fits_of_wf hg, BitFieldSpec.fits_of_wf hb, BitFieldSpec.fits_of_wf ha⟩

theorem Registry.wf_entry {rom : Registry} (h : rom.wf = true) {d : FormatDescriptor} (hd : d ∈ rom.entries) :
    d.wf = true := by
  simp only [Registry.wf, Bool.and_eq_true, List.all_eq_true] at h
  exact h.1 d hd

end Sys2Proof
end

