-- ==== Sys2Proof/Laws/BitField.lean ====
section
/-! SUPPORT. What the bit-field unit computes on a spec that fits its word, in the terms arithmetic lemmas are stated in. -/

namespace Sys2Proof.Machine

/-- The raw field of a spec that fits is a division and a remainder. -/
theorem rawField_eq {w : WordWidth} {c : BitFieldSpec} (h : c.Fits w) (p : Nat) :
    (p >>> c.shift) &&& c.mask = p / 2 ^ c.shift % 2 ^ bitwidth c.mask := by
  have := h.mask_eq
  conv_lhs => rw [this]
  rw [Nat.and_two_pow_sub_one_eq_mod, Nat.shiftRight_eq_div_pow]

theorem rawField_le (c : BitFieldSpec) (p : Nat) : (p >>> c.shift) &&& c.mask ≤ c.mask := Nat.and_le_right

theorem testBit_field {w : WordWidth} {c : BitFieldSpec} (h : c.Fits w) (i : Nat) :
    (c.mask <<< c.shift).testBit i = (decide (c.shift ≤ i) && decide (i < c.shift + bitwidth c.mask)) := by
  have := h.mask_eq
  rw [Nat.testBit_shiftLeft]
  conv_lhs => rw [this]
  rw [Nat.testBit_two_pow_sub_one]
  by_cases hi : c.shift ≤ i <;> simp [hi]
  omega

/-- Bits above the format's width do not reach a field (30_encoding R68). -/
theorem rawField_pixelOperand {w : WordWidth} {c : BitFieldSpec} (h : c.Fits w) (word : Word) :
    (pixelOperand w word >>> c.shift) &&& c.mask = (word.toNat >>> c.shift) &&& c.mask := by
  apply Nat.eq_of_testBit_eq
  intro i
  have hm := h.mask_eq
  rw [Nat.testBit_and, Nat.testBit_and, hm, Nat.testBit_two_pow_sub_one, Nat.testBit_shiftRight, Nat.testBit_shiftRight,
    pixelOperand, Nat.testBit_mod_two_pow]
  have := h.in_word
  by_cases hi : i < bitwidth c.mask
  · have : c.shift + i < w.bits := by omega
    simp [this]
  · simp [hi]

theorem decompose_pixelOperand {w : WordWidth} {c : BitFieldSpec} (h : c.Fits w) (word : Word) :
    decompose c (pixelOperand w word) = decompose c word.toNat := by
  simp only [decompose, rawField_pixelOperand h]

theorem quotient_le {w : WordWidth} {c : BitFieldSpec} (h : c.Fits w) {v : Nat} (hv : v ≤ 255) : v / c.scale ≤ c.mask :=
  le_trans (Nat.div_le_div_right hv) h.raw_le

theorem quotient_lt {w : WordWidth} {c : BitFieldSpec} (h : c.Fits w) {v : Nat} (hv : v ≤ 255) :
    v / c.scale < 2 ^ bitwidth c.mask := by
  have := quotient_le h hv
  have h1 := h.mask_eq
  have := Nat.two_pow_pos (bitwidth c.mask)
  omega

theorem recompose_lt {w : WordWidth} {c : BitFieldSpec} (h : c.Fits w) {v : Nat} (hv : v ≤ 255) :
    recompose c v < 2 ^ (c.shift + bitwidth c.mask) := by
  rw [recompose, Nat.shiftLeft_eq, Nat.pow_add, Nat.mul_comm]
  exact Nat.mul_lt_mul_of_pos_left (quotient_lt h hv) (Nat.two_pow_pos _)

theorem recompose_lt_word {w : WordWidth} {c : BitFieldSpec} (h : c.Fits w) {v : Nat} (hv : v ≤ 255) :
    recompose c v < 2 ^ w.bits :=
  lt_of_lt_of_le (recompose_lt h hv) (Nat.pow_le_pow_right (by decide) h.in_word)

/-- Every spec a well-formed registry holds fits its format's word. -/
theorem fits_of_romAt {rom : Registry} (h : rom.wf = true) {id : FmtId} {d : FormatDescriptor}
    (hd : romAt rom id = some d) (ch : Channel) : (laneOf d.channels ch).Fits d.wordWidth := by
  have hw := FormatDescriptor.channels_fit (Registry.wf_entry h (romAt_some_mem hd).1)
  cases ch <;> simp [laneOf, hw]

end Sys2Proof.Machine
end

