-- ==== Sys2Proof/Laws/Decode.lean ====
section
/-! SUPPORT. The fields of a header and of the payload elements, as the decoder reads them and the encoder writes them. -/

namespace Sys2Proof

theorem headerOp_header (op : BitVec 8) (fa fb : FmtId) (aux : BitVec 8) : headerOp (header op fa fb aux) = op := by
  ext i hi
  simp only [headerOp, header, BitVec.getElem_extractLsb', BitVec.getLsbD_or, BitVec.getLsbD_shiftLeft,
    BitVec.getLsbD_setWidth]
  interval_cases i <;> simp

theorem headerFa_header (op : BitVec 8) (fa fb : FmtId) (aux : BitVec 8) : headerFa (header op fa fb aux) = fa := by
  ext i hi
  simp only [headerFa, header, BitVec.getElem_extractLsb', BitVec.getLsbD_or, BitVec.getLsbD_shiftLeft,
    BitVec.getLsbD_setWidth]
  interval_cases i <;> simp

theorem headerFb_header (op : BitVec 8) (fa fb : FmtId) (aux : BitVec 8) : headerFb (header op fa fb aux) = fb := by
  ext i hi
  simp only [headerFb, header, BitVec.getElem_extractLsb', BitVec.getLsbD_or, BitVec.getLsbD_shiftLeft,
    BitVec.getLsbD_setWidth]
  interval_cases i <;> simp

theorem headerCh_header (op : BitVec 8) (fa fb : FmtId) (aux : BitVec 8) :
    headerCh (header op fa fb aux) = aux.setWidth 2 := by
  ext i hi
  simp only [headerCh, header, BitVec.getElem_extractLsb', BitVec.getLsbD_or, BitVec.getLsbD_shiftLeft,
    BitVec.getLsbD_setWidth, BitVec.getElem_setWidth]
  interval_cases i <;> simp

/-- Masking a header masks its fields. -/
theorem header_and_mask (op : BitVec 8) (fa fb : FmtId) (aux mop : BitVec 8) (mfa mfb : FmtId)
    (maux : BitVec 8) :
    header op fa fb aux &&& header mop mfa mfb maux = header (op &&& mop) (fa &&& mfa) (fb &&& mfb) (aux &&& maux) := by
  ext i hi
  simp only [header, BitVec.getElem_or, BitVec.getElem_and, BitVec.getElem_shiftLeft,
    BitVec.getElem_setWidth, BitVec.getLsbD_and]
  interval_cases i <;> simp

/-- A header is made of its four fields. -/
theorem header_fields (h : Word) : header (headerOp h) (headerFa h) (headerFb h) (h.setWidth 8) = h := by
  ext i hi
  simp only [header, headerOp, headerFa, headerFb, BitVec.getElem_or, BitVec.getElem_shiftLeft, BitVec.getElem_setWidth,
    BitVec.getLsbD_setWidth, BitVec.getLsbD_extractLsb']
  interval_cases i <;> simp [BitVec.getLsbD_eq_getElem]

theorem lowByte_byteWord (v : BitVec 8) : lowByte (byteWord v) = v := by
  simp [lowByte, byteWord]

theorem highBitsClear_iff (w : Word) : highBitsClear w = true ↔ w.toNat < 256 := by
  simp only [highBitsClear, beq_iff_eq, ← BitVec.toNat_inj, BitVec.extractLsb'_toNat, BitVec.ofNat_eq_ofNat,
    BitVec.toNat_ofNat, Nat.shiftRight_eq_div_pow]
  have := w.isLt
  omega

theorem highBitsClear_byteWord (v : BitVec 8) : highBitsClear (byteWord v) = true := by
  rw [highBitsClear_iff]
  simp [byteWord]
  omega

theorem byteWord_lowByte {w : Word} (h : highBitsClear w = true) : byteWord (lowByte w) = w := by
  rw [highBitsClear_iff] at h
  rw [← BitVec.toNat_inj]; simp [byteWord, lowByte]; omega

theorem ofIndex_index (ch : Channel) : Channel.ofIndex (ch.index.setWidth 2) = ch := by cases ch <;> rfl

theorem index_ofIndex (c : BitVec 2) : (Channel.ofIndex c).index = c.setWidth 8 := by revert c; decide

end Sys2Proof
end

