-- ==== Sys2Proof/Laws/Exec.lean ====
section
/-! SUPPORT. What `exec` can do, said once for all nine commands: it completes with a result computed from the registry and the
operands alone. -/

namespace Sys2Proof.Machine

/-- The value or error of a command's function, by command. -/
def resultOf (rom : Registry) : Instr → Except ErrorKind (List Word)
  | .supports name => .ok [boolWord (supports rom name)]
  | .supportsAll names => .ok [boolWord (supportsAll rom names)]
  | .listSupported => .ok ((listSupported rom).map nameWord)
  | .resolve name => resolveResult rom name
  | .decompose name ch packed => decomposeResult rom name ch packed
  | .recompose name ch value => recomposeResult rom name ch value
  | .decode packed name => decodeResult rom packed name
  | .encode components name => encodeResult rom components name
  | .convert pixels source target => convertResult rom pixels source target

theorem exec_eq_complete (i : Instr) (s : State) : exec i s = s.complete (resultOf s.rom i) := by
  cases i <;> rfl

end Sys2Proof.Machine
end

