-- ==== Sys2Proof/Laws/PerInstr.lean ====
section
/-! SUPPORT. A statement of every command as syntax: the packet the encoder writes is selected by its own row of the opcode table and has
a payload length that row allows (30_encoding R66, R76). -/

namespace Sys2Proof.Laws.HeaderMatchesRow

/-- The row of the opcode map a command belongs to. -/
def row : Instr → Opcode
  | .supports _ => .supports
  | .supportsAll _ => .supportsAll
  | .listSupported => .listSupported
  | .resolve _ => .resolve
  | .decompose _ _ _ => .decompose
  | .recompose _ _ _ => .recompose
  | .decode _ _ => .decode
  | .encode _ _ => .encode
  | .convert _ _ _ => .convert

/-- The encoded header satisfies `(header & mask) == match` for the command's row, its `op` field is the row's code, and the payload
has the command's length, which the row allows. -/
def Statement (i : Instr) : Prop :=
  (encode i).header &&& (row i).mask = (row i).pattern ∧
  headerOp (encode i).header = (row i).code ∧
  (encode i).payload.length = i.payloadLength ∧
  (row i).lengthLegal (encode i).payload.length = true

/-- Masking out the operand fields of a header leaves its other fields. -/
theorem masked (op : BitVec 8) (fa fb : FmtId) (aux mfa mfb maux : BitVec 8) (hfa : fa &&& mfa = 0) (hfb : fb &&& mfb = 0)
    (haux : aux &&& maux = 0) : header op fa fb aux &&& header 0xFF mfa mfb maux = header op 0 0 0 := by
  rw [header_and_mask, hfa, hfb, haux]
  congr 1
  exact BitVec.and_allOnes

theorem supports (name : FmtId) : Statement (.supports name) :=
  ⟨masked 0x01 name 0 0 0 0xFF 0xFF BitVec.and_zero rfl rfl, headerOp_header _ _ _ _, rfl, rfl⟩

theorem supportsAll (names : List FmtId) : Statement (.supportsAll names) :=
  ⟨masked 0x02 0 0 0 0xFF 0xFF 0xFF rfl rfl rfl, headerOp_header _ _ _ _, List.length_map _, rfl⟩

theorem listSupported : Statement .listSupported := ⟨rfl, rfl, rfl, rfl⟩

theorem resolve (name : FmtId) : Statement (.resolve name) :=
  ⟨masked 0x04 name 0 0 0 0xFF 0xFF BitVec.and_zero rfl rfl, headerOp_header _ _ _ _, rfl, rfl⟩

theorem decompose (name : FmtId) (ch : Channel) (packed : Word) : Statement (.decompose name ch packed) :=
  ⟨masked 0x05 name 0 ch.index 0 0xFF 0xFC BitVec.and_zero rfl (by cases ch <;> rfl), headerOp_header _ _ _ _, rfl, rfl⟩

theorem recompose (name : FmtId) (ch : Channel) (value : Component) : Statement (.recompose name ch value) :=
  ⟨masked 0x06 name 0 ch.index 0 0xFF 0xFC BitVec.and_zero rfl (by cases ch <;> rfl), headerOp_header _ _ _ _, rfl, rfl⟩

theorem decode (packed : Word) (name : FmtId) : Statement (.decode packed name) :=
  ⟨masked 0x07 name 0 0 0 0xFF 0xFF BitVec.and_zero rfl rfl, headerOp_header _ _ _ _, rfl, rfl⟩

theorem encode (components : List Component) (name : FmtId) : Statement (.encode components name) :=
  ⟨masked 0x08 name 0 0 0 0xFF 0xFF BitVec.and_zero rfl rfl, headerOp_header _ _ _ _, List.length_map _, rfl⟩

theorem convert (pixels : List Word) (source target : FmtId) : Statement (.convert pixels source target) :=
  ⟨masked 0x09 source target 0 0 0 0xFF BitVec.and_zero BitVec.and_zero rfl, headerOp_header _ _ _ _, rfl, rfl⟩

end Sys2Proof.Laws.HeaderMatchesRow
end

