-- ==== Sys2Proof/Tests/Slice0.lean ====
section
/-! SUPPORT. Tests whose expected values are the spec's own (95_test_vectors, named by their ids there), the well-formedness smoke
tests, and for every statement with hypotheses a witness that they can be met together. -/

namespace Sys2Proof.Tests

open Sys2Proof.Machine

/-! ### Decoding: words written out from the encoding tables of 30_encoding R63 to R66 -/

/-- SUPPORTS: op 0000_0001, fa 0000_0101, fb and aux zero (T-RG). -/
theorem test_decode_supports :
    decode ⟨0b00000001_00000101_00000000_00000000, []⟩ = .command (.supports 0x05) := by decide

/-- SUPPORTS_ALL: op 0000_0010, the rest zero, two name words (T-RG). -/
theorem test_decode_supportsAll :
    decode ⟨0b00000010_00000000_00000000_00000000, [0x00000001, 0x000000FF]⟩ = .command (.supportsAll [0x01, 0xFF]) := by
  decide

/-- LIST_SUPPORTED: op 0000_0011, the rest zero (T-RG). -/
theorem test_decode_listSupported :
    decode ⟨0b00000011_00000000_00000000_00000000, []⟩ = .command .listSupported := by decide

/-- RESOLVE: op 0000_0100, fa 0010_1010 (R104). -/
theorem test_decode_resolve :
    decode ⟨0b00000100_00101010_00000000_00000000, []⟩ = .command (.resolve 0x2A) := by decide

/-- DECOMPOSE: op 0000_0101, fa 0000_0010, aux[1:0] = 11 (T-DC). -/
theorem test_decode_decompose :
    decode ⟨0b00000101_00000010_00000000_00000011, [0x00008000]⟩ = .command (.decompose 0x02 .a 0x00008000) := by decide

/-- RECOMPOSE: op 0000_0110, fa 0000_0100, aux[1:0] = 10 (T-RC). -/
theorem test_decode_recompose :
    decode ⟨0b00000110_00000100_00000000_00000010, [0x00000044]⟩ = .command (.recompose 0x04 .b 0x44) := by decide

/-- DECODE: op 0000_0111, fa 0000_0000; a pixel word keeps all its bits (T-DE). -/
theorem test_decode_decode :
    decode ⟨0b00000111_00000000_00000000_00000000, [0xFFFF1234]⟩ = .command (.decode 0xFFFF1234 0x00) := by decide

/-- ENCODE: op 0000_1000, fa 0000_0101, a count other than four decodes (S7.5a). -/
theorem test_decode_encode :
    decode ⟨0b00001000_00000101_00000000_00000000, [1, 2, 3]⟩ = .command (.encode [1, 2, 3] 0x05) := by decide

/-- CONVERT: op 0000_1001, fa 0000_0001, fb 0000_0101 (S2). -/
theorem test_decode_convert :
    decode ⟨0b00001001_00000001_00000101_00000000, [0x00000000]⟩ = .command (.convert [0x00000000] 0x01 0x05) := by decide

/-- T-RS: the fourteen refused packets of 95_test_vectors, each by its ground. -/
theorem test_reserved_packets :
    decode ⟨0x00000000, []⟩ = .reserved .opcode ∧ decode ⟨0x0A000000, []⟩ = .reserved .opcode ∧
    decode ⟨0xFF050000, []⟩ = .reserved .opcode ∧ decode ⟨0x01050100, []⟩ = .reserved .mustBeZero ∧
    decode ⟨0x03010000, []⟩ = .reserved .mustBeZero ∧ decode ⟨0x07000001, [0x00001234]⟩ = .reserved .mustBeZero ∧
    decode ⟨0x05000004, [0x00001234]⟩ = .reserved .mustBeZero ∧ decode ⟨0x09000501, [0x00001234]⟩ = .reserved .mustBeZero ∧
    decode ⟨0x01050000, [0x00000000]⟩ = .reserved .payloadLength ∧ decode ⟨0x07000000, []⟩ = .reserved .payloadLength ∧
    decode ⟨0x07000000, [1, 2]⟩ = .reserved .payloadLength ∧
    decode ⟨0x08050000, [0x00000100, 0, 0, 0]⟩ = .reserved .componentBits ∧
    decode ⟨0x06000000, [0x00000100]⟩ = .reserved .componentBits ∧
    decode ⟨0x02000000, [0x00000105]⟩ = .reserved .nameBits := by decide

/-! ### One step from reset: packet in, response out -/

/-- The block fresh from reset answers `p` with exactly `r`, and nothing else has changed. -/
def answers (p : Packet) (r : Response) : Bool :=
  match step (State.reset.issue p) with
  | .next t => t == { State.reset with responses := [r] }
  | .fault _ => false
  | .refused _ => false

/-- T-RG: 0x05 is registered, 0x06 is not. -/
theorem test_supports : answers ⟨0x01050000, []⟩ ⟨0, [1]⟩ = true ∧ answers ⟨0x01060000, []⟩ ⟨0, [0]⟩ = true := by decide

/-- T-RG and S6. -/
theorem test_supportsAll : answers ⟨0x02000000, [0, 0xFF, 1]⟩ ⟨0, [0]⟩ = true ∧ answers ⟨0x02000000, []⟩ ⟨0, [1]⟩ = true := by
  decide

/-- T-RG. -/
theorem test_listSupported : answers ⟨0x03000000, []⟩ ⟨0, [0, 1, 2, 3, 4, 5]⟩ = true := by decide

/-- P5, command 1. -/
theorem test_resolve :
    answers ⟨0x04020000, []⟩ ⟨0, [16, 10, 0x1F, 8, 5, 0x1F, 8, 0, 0x1F, 8, 15, 1, 255]⟩ = true := by decide

/-- T-RG: an unregistered identifier. -/
theorem test_resolve_unknown : answers ⟨0x04060000, []⟩ ⟨1, [0, 1, 2, 3, 4, 5]⟩ = true := by decide

/-- T-DC: rgba4444.G of 0xABCD, and bgra8888.R of 0x11223344. -/
theorem test_decompose : answers ⟨0x05000001, [0x0000ABCD]⟩ ⟨0, [0xB0]⟩ = true ∧
    answers ⟨0x05040000, [0x11223344]⟩ ⟨0, [0x33]⟩ = true := by decide

/-- T-DC: bits 31:16 of a 16-bit format's word are ignored. -/
theorem test_decompose_high_bits : answers ⟨0x05000000, [0xFFFF1234]⟩ ⟨0, [0x10]⟩ = true := by decide

/-- T-RC: 254 does not set a 1-bit alpha, 255 does. -/
theorem test_recompose : answers ⟨0x06010003, [0xFE]⟩ ⟨0, [0]⟩ = true ∧ answers ⟨0x06010003, [0xFF]⟩ ⟨0, [1]⟩ = true := by decide

/-- T-RC: the top field of a word. -/
theorem test_recompose_top : answers ⟨0x06050003, [0xFF]⟩ ⟨0, [0xFF000000]⟩ = true := by decide

/-- T-DE: 0x8421 under rgba5551, and 0x11223344 under argb8888. -/
theorem test_decode : answers ⟨0x07010000, [0x00008421]⟩ ⟨0, [128, 128, 128, 255]⟩ = true ∧
    answers ⟨0x07050000, [0x11223344]⟩ ⟨0, [34, 51, 68, 17]⟩ = true := by decide

/-- S3 and T-EN: argb5551 of (247, 248, 249, 127). -/
theorem test_encode : answers ⟨0x08050000, [0xFF, 0, 0, 0xFF]⟩ ⟨0, [0xFFFF0000]⟩ = true ∧
    answers ⟨0x08020000, [0xF7, 0xF8, 0xF9, 0x7F]⟩ ⟨0, [0x7BFF]⟩ = true := by decide

/-- S7.0a, and T-EN: unregistered and three components, where UnknownFormat wins. -/
theorem test_encode_errors : answers ⟨0x08000000, [1, 2, 3]⟩ ⟨3, []⟩ = true ∧
    answers ⟨0x08060000, [1, 2, 3]⟩ ⟨1, [0, 1, 2, 3, 4, 5]⟩ = true := by decide

/-- T-CV: three pixels, and 4-bit to 5-bit with a lost alpha. -/
theorem test_convert :
    answers ⟨0x09000500, [0xF00F, 0x0F0F, 0x1234]⟩ ⟨0, [0xF0F00000, 0xF000F000, 0x40102030]⟩ = true ∧
    answers ⟨0x09000100, [0xABCD]⟩ ⟨0, [0xA5B0]⟩ = true := by decide

/-- T-CV: empty and unregistered, and both unregistered. -/
theorem test_convert_errors : answers ⟨0x092A0300, []⟩ ⟨2, []⟩ = true ∧ answers ⟨0x09070800, [1, 2]⟩ ⟨2, []⟩ = true := by decide

/-- U11, R78: a bound of one word refuses a payload of two. -/
theorem test_payload_too_long :
    accept (some 1) ⟨0x09000500, [1, 2]⟩ = .reserved .payloadTooLong ∧
    accept (some 2) ⟨0x09000500, [1, 2]⟩ = .command (.convert [1, 2] 0x00 0x05) := by decide

/-! ### The host's byte layouts: the examples of 20_memory R46 and R50 -/

theorem test_read_bytes : pixelsOfBytes .w16 [0x21, 0x84] = some [0x8421] ∧
    pixelsOfBytes .w32 [0x44, 0x33, 0x22, 0x11] = some [0x11223344] ∧ pixelsOfBytes .w16 [0x21] = none := by decide

theorem test_write_bytes : pixelBytes .w16 0xC210 = [0x10, 0xC2] ∧ pixelBytes .w32 0x44112233 = [0x44, 0x11, 0x22, 0x33] := by
  decide

/-! ### Well-formedness smoke tests: one ill-formed term for each check of 70_reset R150, of the canonical form and of MAX_LEN -/

/-- Check (1): 0x5 is not a run of low-order ones, 0 is not positive. -/
theorem test_wf_mask : BitFieldSpec.wf .w16 ⟨0, 0x5, 51⟩ = false ∧ BitFieldSpec.contiguousMask ⟨0, 0, 16⟩ = false := by decide

/-- Check (2): a 4-bit field at bit 13 leaves a 16-bit word. -/
theorem test_wf_in_word : BitFieldSpec.wf .w16 ⟨13, 0xF, 16⟩ = false ∧ BitFieldSpec.wf .w32 ⟨13, 0xF, 16⟩ = true := by decide

/-- Check (4): a scale of 0, one too large for the mask, one too small for it. -/
theorem test_wf_scale : BitFieldSpec.wf .w16 ⟨0, 0xF, 0⟩ = false ∧ BitFieldSpec.wf .w16 ⟨0, 0xF, 18⟩ = false ∧
    BitFieldSpec.wf .w16 ⟨0, 0xF, 15⟩ = false ∧ BitFieldSpec.wf .w16 ⟨0, 0xF, 17⟩ = true := by decide

/-- Check (5): two channels over the same bits. -/
theorem test_wf_disjoint :
    FormatDescriptor.wf ⟨0x00, ⟨⟨12, 0xF, 16⟩, ⟨12, 0xF, 16⟩, ⟨4, 0xF, 16⟩, ⟨0, 0xF, 16⟩⟩, .w16⟩ = false := by decide

/-- The canonical form: a registry out of order, and one that lists a name twice. -/
theorem test_wf_ascending : Registry.wf ⟨[Rom.rgba5551, Rom.rgba4444]⟩ = false ∧
    Registry.wf ⟨[Rom.rgba4444, Rom.rgba4444]⟩ = false ∧ Registry.wf Rom.default = true := by decide

/-- MAX_LEN. -/
theorem test_wf_max_len : Instr.wf (some 1) (.convert [0, 0] 0 0) = false ∧ Instr.wf (some 2) (.convert [0, 0] 0 0) = true := by
  decide

/-! ### Opcode-table rows as the host lays them out -/

theorem test_table_rows :
    decodeTableWord 32 0x01050000 = some (.supports 0x05) ∧ decodeTableWord 32 0x02000000 = some (.supportsAll [0x00]) ∧
    decodeTableWord 32 0x03000000 = some .listSupported ∧ decodeTableWord 32 0x04050000 = some (.resolve 0x05) ∧
    decodeTableWord 32 0x05050003 = some (.decompose 0x05 .a 0) ∧ decodeTableWord 32 0x06050000 = some (.recompose 0x05 .r 0) ∧
    decodeTableWord 32 0x07050000 = some (.decode 0 0x05) ∧ decodeTableWord 32 0x08050000 = some (.encode [0, 0, 0, 0] 0x05) ∧
    decodeTableWord 32 0x09050300 = some (.convert [0] 0x05 0x03) ∧ decodeTableWord 32 0x0A000000 = none ∧
    decodeTableWord 64 0x0000ABCD07000000 = some (.decode 0xABCD 0x00) := by decide

/-! ### Witnesses: the hypotheses of each statement, met together -/

/-- The 4-bit red of rgba4444. -/
def spec4 : BitFieldSpec := ⟨12, 0xF, 16⟩

/-- A state with a bound, two pending commands and an earlier response. -/
def busy : State := ⟨Rom.default, some 1, [⟨0x05000001, [0xABCD]⟩, ⟨0x03000000, []⟩], [⟨0x00000003, []⟩]⟩

/-- A state with a bound of one word whose oldest pending packet has a payload of two. -/
def tooLong : State := ⟨Rom.default, some 1, [⟨0x09000500, [1, 2]⟩], []⟩

/-- A state whose registry holds a mask with a gap. -/
def illFormed : State := ⟨⟨[⟨0x00, ⟨⟨0, 5, 51⟩, spec4, spec4, spec4⟩, .w16⟩]⟩, none, [], []⟩

theorem witness_ResetHoldsTheDecidedTable : 5 < (0x06 : FmtId).toNat ∧ 5 < (0xFF : FmtId).toNat := by decide

theorem witness_DefaultTableProperties : Rom.rgba5551 ∈ State.reset.rom.entries := by decide

theorem witness_SpecsAreLowOrderRunsInsideTheWord :
    Rom.default.wf = true ∧ Rom.argb8888 ∈ Rom.default.entries ∧ laneOf Rom.argb8888.channels .a = ⟨24, 0xFF, 1⟩ := by decide

theorem witness_MaskIsTheLargestRawField : spec4.wf .w16 = true ∧ (⟨0, 0x1, 255⟩ : BitFieldSpec).wf .w16 = true := by decide

theorem witness_DecomposeReadsItsFieldOnly : spec4.wf .w16 = true ∧
    ∀ i, spec4.shift ≤ i → i < spec4.shift + bitwidth spec4.mask → (0x1234 : Nat).testBit i = (0xF1FFF : Nat).testBit i := by
  refine ⟨by decide, fun i h1 h2 => ?_⟩
  have h1 : 12 ≤ i := h1
  have h2 : i < 16 := h2
  interval_cases i <;> decide

theorem witness_RecomposeYieldsOnlyItsField : spec4.wf .w16 = true ∧ 0 ≤ 255 ∧ 255 ≤ 255 := by decide

theorem witness_RecomposeTruncates : (⟨24, 0xFF, 1⟩ : BitFieldSpec).scale = 1 := rfl

theorem witness_ChannelCompositions : spec4.wf .w16 = true ∧ 255 ≤ 255 := by decide

theorem witness_DecomposeCommandCompletes :
    busy.rom.wf = true ∧ romAt busy.rom 0x00 = some Rom.rgba4444 ∧ laneOf Rom.rgba4444.channels .r = spec4 := by decide

theorem witness_RecomposeCommandCompletes :
    busy.rom.wf = true ∧ romAt busy.rom 0x05 = some Rom.argb8888 ∧ laneOf Rom.argb8888.channels .a = ⟨24, 0xFF, 1⟩ := by decide

theorem witness_SupportsAllCommandCompletes :
    (∀ x, x ∈ ([0x01, 0x05] : List FmtId) ↔ x ∈ ([0x05, 0x01, 0x01] : List FmtId)) ∧ busy.rom = State.reset.rom :=
  ⟨fun x => by simp [or_comm], rfl⟩

theorem witness_ListSupportedCommandCompletes : Rom.default.wf = true ∧ busy.rom = State.reset.rom := by decide

theorem witness_ResolveCommandCompletes :
    romAt busy.rom 0x05 = some ⟨0x05, ⟨⟨16, 0xFF, 1⟩, ⟨8, 0xFF, 1⟩, ⟨0, 0xFF, 1⟩, ⟨24, 0xFF, 1⟩⟩, .w32⟩ := by decide

theorem witness_DecodeCommandCompletes : busy.rom.wf = true ∧ romAt busy.rom 0x00 = some Rom.rgba4444 ∧
    romAt busy.rom 0x06 = none ∧ busy.rom = State.reset.rom := by decide

theorem witness_DecodeRangeAndIgnoredBits :
    romAt busy.rom 0x02 = some Rom.argb5551 ∧ Rom.argb5551.wordWidth = .w16 := by decide

theorem witness_EncodeCommandCompletes : romAt busy.rom 0x05 = some Rom.argb8888 ∧ romAt busy.rom 0xFF = none ∧
    ([] : List Component).length ≠ 4 ∧ ([1, 2, 3, 4, 5] : List Component).length ≠ 4 ∧ 15 < spec4.scale ∧
    busy.rom = State.reset.rom ∧ Rom.rgba4444 ∈ busy.rom.entries := by decide

theorem witness_EncodeRejectsEveryOtherCount :
    supports busy.rom 0x05 = true ∧ ([1, 2, 3] : List Component).length ≠ 4 ∧ ([1, 2, 3, 4, 5] : List Component).length ≠ 4 := by
  decide

theorem witness_EncodedFieldsHoldTheQuotients : Rom.argb5551.wf = true ∧ 0 ≤ 255 ∧ 254 ≤ 255 ∧ 255 ≤ 255 := by decide

theorem witness_PixelRoundTrip : Rom.rgba4444.wf = true ∧
    0xFFFF &&& (0xF <<< 12 ||| 0xF <<< 8 ||| 0xF <<< 4 ||| 0xF <<< 0) = 0xFFFF ∧
    Rom.rgba4444 ∈ State.reset.rom.entries ∧ 0xFFFF < 2 ^ Rom.rgba4444.wordWidth.bits := by decide

theorem witness_ComponentRoundTripRoundsDown : Rom.rgba5551.wf = true ∧ 255 ≤ 255 ∧ 0 ≤ 255 := by decide

theorem witness_ConvertCommandCompletes : busy.rom.wf = true ∧ romAt busy.rom 0x01 = some Rom.rgba5551 ∧
    romAt busy.rom 0x05 = some Rom.argb8888 ∧ (romAt busy.rom 0x06 = none ∨ romAt busy.rom 0x05 = none) ∧
    (romAt busy.rom 0x05 = none ∨ romAt busy.rom 0x06 = none) ∧ busy.rom = State.reset.rom := by decide

theorem witness_ConvertIsOneFunctionPerPixel :
    supports Rom.default 0x00 = true ∧ supports Rom.default 0x05 = true ∧ busy.rom = Rom.default := by decide

theorem witness_ConvertIsDecodeThenEncode :
    busy.rom.wf = true ∧ supports busy.rom 0x00 = true ∧ supports busy.rom 0x01 = true := by decide

theorem witness_ConvertToTheSameFormatIsIdentity : busy.rom = State.reset.rom ∧ Rom.argb5551 ∈ busy.rom.entries ∧
    Rom.bgra8888 ∈ busy.rom.entries := by decide

theorem witness_ConvertedChannelIsTheScaledQuotient : busy.rom.wf = true ∧ romAt busy.rom 0x00 = some Rom.rgba4444 ∧
    romAt busy.rom 0x01 = some Rom.rgba5551 ∧ laneOf Rom.rgba4444.channels .r = spec4 ∧
    laneOf Rom.rgba5551.channels .r = ⟨11, 0x1F, 8⟩ := by decide

/-- An error of each kind is raised by some command, so the equivalences of the three statements about errors are met on both sides;
SUPPORTS of the same unregistered name answers OK. -/
theorem witness_ErrorStatuses :
    exec (.resolve 0x06) State.reset = .next { State.reset with responses := [⟨1, [0, 1, 2, 3, 4, 5]⟩] } ∧
    exec (.convert [] 0x05 0x06) State.reset = .next { State.reset with responses := [⟨2, []⟩] } ∧
    exec (.encode [1, 2, 3] 0x05) State.reset = .next { State.reset with responses := [⟨3, []⟩] } ∧
    exec (.supports 0x06) State.reset = .next { State.reset with responses := [⟨0, [0]⟩] } := ⟨rfl, rfl, rfl, rfl⟩

theorem witness_NoCommandWritesAnythingElse : ∃ t, exec (.decode 0xFFFF 0x00) busy = .next t :=
  ⟨_, exec_eq_complete _ _⟩

theorem witness_ResponseDependsOnCommandAndRegistryAlone : busy.rom = State.reset.rom ∧ busy ≠ State.reset := by decide

theorem witness_ErrorsDoNotStick : ∃ t, exec (.resolve 0x06) busy = .next t := ⟨_, exec_eq_complete _ _⟩

theorem witness_EncodeOfDecode : decode ⟨0x05000003, [0x1234]⟩ = .command (.decompose 0x00 .a 0x1234) := by decide

theorem witness_StepRunsTheOldestCommand : busy.rom.wf = true ∧
    busy.commands = ⟨0x05000001, [0xABCD]⟩ :: [⟨0x03000000, []⟩] ∧
    decode ⟨0x05000001, [0xABCD]⟩ = .command (.decompose 0x00 .g 0xABCD) ∧ busy.maxLen = some 1 ∧
    (⟨0x05000001, [0xABCD]⟩ : Packet).payload.length ≤ 1 := by decide

theorem witness_StepRefusesReservedPackets :
    (State.reset.issue ⟨0x00000000, []⟩).rom.wf = true ∧
    (State.reset.issue ⟨0x00000000, []⟩).commands = ⟨0x00000000, []⟩ :: [] ∧
    decode ⟨0x00000000, []⟩ = .reserved .opcode ∧
    tooLong.rom.wf = true ∧ tooLong.commands = ⟨0x09000500, [1, 2]⟩ :: [] ∧
    decode ⟨0x09000500, [1, 2]⟩ = .command (.convert [1, 2] 0x00 0x05) ∧ tooLong.maxLen = some 1 ∧
    1 < (⟨0x09000500, [1, 2]⟩ : Packet).payload.length := by decide

/-- A registry that fails a check of 70_reset R150, and one that fails the canonical order alone. -/
theorem witness_StepRefusesAnIllFormedRegistry : illFormed.rom.wf = false ∧
    ({ State.reset with rom := ⟨[Rom.rgba5551, Rom.rgba4444]⟩ } : State).rom.wf = false := by decide

theorem witness_StepWaitsForACommand : State.reset.rom.wf = true ∧ State.reset.commands = [] := by decide

theorem witness_StepRunsTheFetchWord : State.reset.rom.wf = true ∧ State.reset.maxLen = none ∧
    decodeTableWord 32 0x03000000 = some .listSupported := by decide

theorem witness_NoParameterChangesAtRunTime : ∃ t, step busy = .next t ∧ t ≠ busy :=
  ⟨⟨Rom.default, some 1, [⟨0x03000000, []⟩], [⟨3, []⟩, ⟨0, [0xB0]⟩]⟩, rfl, by decide⟩

theorem witness_StepKeepsTheInvariant : busy.Inv ∧ ∃ t, step busy = .next t :=
  ⟨⟨by decide, by decide⟩, ⟨Rom.default, some 1, [⟨0x03000000, []⟩], [⟨3, []⟩, ⟨0, [0xB0]⟩]⟩, rfl⟩

theorem witness_RunAnswersEveryCommandInOrder :
    busy.rom.wf = true ∧ busy.allAccepted = true ∧ busy.commands.length = 2 := by decide

theorem witness_PixelsAreReadLittleEndian : pixelsOfBytes .w16 [0x21, 0x84] = some [0x8421] ∧
    pixelsOfBytes .w32 [0x44, 0x33, 0x22, 0x11] = some [0x11223344] := by decide

theorem witness_BitmapHeaderLayout : ([0, 0, 0, 0, 0, 0, 0, 0, 0, 0] : List Byte).length = 10 := rfl

end Sys2Proof.Tests
end

section
/-! What a step that answers a next state has done, said once for every statement about steps. -/

namespace Sys2Proof.Machine

/-- Inversion of `step`: a next state comes from a well-formed registry, and is the state before when the block waits
(70_reset R148), or the state without its oldest packet and with that command's one response (20_memory R54). -/
theorem step_eq_next_cases {s t : State} (h : step s = .next t) :
    s.rom.wf = true ∧
    ((s.commands = [] ∧ t = s) ∨
      ∃ p rest i, s.commands = p :: rest ∧ accept s.maxLen p = .command i ∧
        t = State.answer { s with commands := rest } (responseOf s.rom (resultOf s.rom i))) := by
  by_cases hwf : s.rom.wf = true
  case neg => simp [step, hwf] at h
  refine ⟨hwf, ?_⟩
  cases hcmd : s.commands with
  | nil =>
    have ht : s = t := by simpa [step, hwf, hcmd] using h
    exact .inl ⟨rfl, ht.symm⟩
  | cons p rest =>
    cases hacc : accept s.maxLen p with
    | reserved why => simp [step, hwf, State.takeCommand_cons hcmd, hacc] at h
    | command i =>
      have ht : State.answer { s with commands := rest } (responseOf s.rom (resultOf s.rom i)) = t := by
        simpa [step, hwf, State.takeCommand_cons hcmd, hacc, exec_eq_complete, State.complete_eq] using h
      exact .inr ⟨p, rest, i, rfl, hacc, ht.symm⟩

/-- Settles O47: a step leaves the state as it is, or takes one packet and answers one response; neither touches the
registry or `MAX_LEN`. -/
theorem noParameterChangesAtRunTime : Obligations.NoParameterChangesAtRunTime := by
  intro s t h
  obtain ⟨-, ⟨-, rfl⟩ | ⟨_, _, _, -, -, rfl⟩⟩ := step_eq_next_cases h
  · exact ⟨rfl, rfl⟩
  · exact ⟨State.answer_rom _ _, State.answer_maxLen _ _⟩

end Sys2Proof.Machine
end

section
/-! The state of the block: what the registry holds after reset, what its checks give of every spec (10_state R16, R17, R29),
and the frame of a command (10_state R33). -/

namespace Sys2Proof.Machine

/-- Settles O1: reset loads the default table, and the read at 0x05 finds its last entry. -/
theorem resetHoldsTheArgb8888Entry : Obligations.ResetHoldsTheArgb8888Entry :=
  calc romAt State.reset.rom 0x05
    _ = romAt Rom.default Rom.argb8888.name := rfl
    _ = some Rom.argb8888 := by decide

theorem wordWidth_bits_le (w : WordWidth) : w.bits ≤ 32 := by
  cases w <;> decide

theorem bitwidth_pos (m : Nat) : 0 < bitwidth m := Nat.succ_pos _

/-- Every lane of a well-formed descriptor fits its word, whichever channel it belongs to. -/
theorem fits_laneOf {d : FormatDescriptor} (h : d.wf = true) (ch : Channel) :
    (laneOf d.channels ch).Fits d.wordWidth := by
  obtain ⟨hr, hg, hb, ha⟩ := FormatDescriptor.channels_fit h
  cases ch with
  | r => exact hr
  | g => exact hg
  | b => exact hb
  | a => exact ha

/-- Settles O5: the checks make the mask `2 ^ bitwidth - 1` and put the field inside a word of at most 32 bits; the field has
at least one bit, so its shift is below 32. -/
theorem specsAreLowOrderRunsInsideTheWord : Obligations.SpecsAreLowOrderRunsInsideTheWord := by
  rintro rom hrom d hd ch c rfl
  have hfits := fits_laneOf (Registry.wf_entry hrom hd) ch
  have hin := hfits.in_word
  have hword := wordWidth_bits_le d.wordWidth
  have hpos := bitwidth_pos (laneOf d.channels ch).mask
  exact ⟨⟨_, hpos, hfits.mask_eq⟩, hfits.scale_pos, hin, by omega, by omega⟩

/-- Inversion of `exec`: a next state is the state before with the command's one response added. -/
theorem eq_answer_of_exec_eq_next {i : Instr} {s t : State} (h : exec i s = .next t) :
    t = s.answer (responseOf s.rom (resultOf s.rom i)) := by
  rw [exec_eq_complete, State.complete_eq] at h
  exact (Host.Outcome.next.inj h).symm

/-- Settles O36: a command does nothing but answer, and an answer keeps every field but the list of responses. -/
theorem noCommandWritesAnythingElse : Obligations.NoCommandWritesAnythingElse := by
  intro i s t h
  obtain rfl := eq_answer_of_exec_eq_next h
  exact ⟨State.answer_rom _ _, State.answer_maxLen _ _, State.answer_commands _ _,
    fun id => congrArg (romAt · id) (State.answer_rom _ _), _, State.answer_responses _ _⟩

end Sys2Proof.Machine
end

section
/-! The host's byte layouts: a byte put on top of a shorter word adds its place value (20_memory R46). -/

namespace Sys2Proof.Machine

/-- A byte shifted by at most 24 places stays inside a 32-bit word. -/
theorem toNat_byte_shiftLeft (b : Byte) {k : Nat} (hk : k ≤ 24) : (b.setWidth 32 <<< k).toNat = 2 ^ k * b.toNat := by
  have hb : b.toNat * 2 ^ k < 2 ^ 32 :=
    calc b.toNat * 2 ^ k
      _ < 2 ^ 8 * 2 ^ k := Nat.mul_lt_mul_of_pos_right b.isLt (by positivity)
      _ = 2 ^ (8 + k) := (Nat.pow_add 2 8 k).symm
      _ ≤ 2 ^ 32 := Nat.pow_le_pow_right (by decide) (by omega)
  have hset : (b.setWidth 32).toNat = b.toNat := BitVec.toNat_setWidth_of_le (by decide)
  rw [BitVec.toNat_shiftLeft, hset, Nat.shiftLeft_eq, Nat.mod_eq_of_lt hb, Nat.mul_comm]

/-- A word below `2 ^ k` and a byte from bit `k` upward share no bit, so their OR is their sum. -/
theorem toNat_or_byte_shiftLeft {w : Word} (b : Byte) {k : Nat} (hk : k ≤ 24) (hw : w.toNat < 2 ^ k) :
    (w ||| b.setWidth 32 <<< k).toNat = w.toNat + 2 ^ k * b.toNat := by
  rw [BitVec.toNat_or, toNat_byte_shiftLeft b hk, Nat.or_comm, ← Nat.two_pow_add_eq_or_of_lt hw, Nat.add_comm]

theorem word16OfBytes_toNat (b0 b1 : Byte) : (word16OfBytes b0 b1).toNat = b0.toNat + 2 ^ 8 * b1.toNat := by
  have h0 : (b0.setWidth 32).toNat = b0.toNat := BitVec.toNat_setWidth_of_le (by decide)
  rw [word16OfBytes, toNat_or_byte_shiftLeft b1 (by decide) (h0 ▸ b0.isLt), h0]

/-- A four-byte word is the two-byte word of its low bytes with two more bytes on top. -/
theorem word32OfBytes_toNat (b0 b1 b2 b3 : Byte) : (word32OfBytes b0 b1 b2 b3).toNat =
    b0.toNat + 2 ^ 8 * b1.toNat + 2 ^ 16 * b2.toNat + 2 ^ 24 * b3.toNat := by
  have h16 := word16OfBytes_toNat b0 b1
  have h24 : (word16OfBytes b0 b1 ||| b2.setWidth 32 <<< 16).toNat = (word16OfBytes b0 b1).toNat + 2 ^ 16 * b2.toNat :=
    toNat_or_byte_shiftLeft b2 (by decide) (by omega)
  calc (word32OfBytes b0 b1 b2 b3).toNat
    _ = ((word16OfBytes b0 b1 ||| b2.setWidth 32 <<< 16) ||| b3.setWidth 32 <<< 24).toNat := rfl
    _ = (word16OfBytes b0 b1 ||| b2.setWidth 32 <<< 16).toNat + 2 ^ 24 * b3.toNat :=
      toNat_or_byte_shiftLeft b3 (by decide) (by omega)
    _ = b0.toNat + 2 ^ 8 * b1.toNat + 2 ^ 16 * b2.toNat + 2 ^ 24 * b3.toNat := by rw [h24, h16]

@[simp] theorem pixelsOfBytes_nil (w : WordWidth) : pixelsOfBytes w [] = some [] := by
  cases w <;> rfl

@[simp] theorem pixelsOfBytes_w16_cons (b0 b1 : Byte) (rest : List Byte) :
    pixelsOfBytes .w16 (b0 :: b1 :: rest) = (pixelsOfBytes .w16 rest).map (word16OfBytes b0 b1 :: ·) := rfl

@[simp] theorem pixelsOfBytes_w32_cons (b0 b1 b2 b3 : Byte) (rest : List Byte) :
    pixelsOfBytes .w32 (b0 :: b1 :: b2 :: b3 :: rest) =
      (pixelsOfBytes .w32 rest).map (word32OfBytes b0 b1 b2 b3 :: ·) := rfl

/-- Settles O51: the bytes of a word lie in disjoint places, so it is the sum of their place values; a sequence is read from
its front, one word before the words of the rest. -/
theorem pixelsAreReadLittleEndian : Obligations.PixelsAreReadLittleEndian := by
  refine ⟨word16OfBytes_toNat, word32OfBytes_toNat, ?word16, ?word32, pixelsOfBytes_nil .w16, pixelsOfBytes_nil .w32⟩
  case word16 =>
    intro b0 b1 rest ws h
    rw [pixelsOfBytes_w16_cons, h, Option.map_some]
  case word32 =>
    intro b0 b1 b2 b3 rest ws h
    rw [pixelsOfBytes_w32_cons, h, Option.map_some]

end Sys2Proof.Machine
end

section
/-! The bit-field unit's two functions (40_bitfield R85, R88, R89): what each may answer, and what `recompose` drops. -/

namespace Sys2Proof.Machine

/-- The quotient of a component is a raw field already: masking it changes nothing. -/
theorem quotient_and_mask {w : WordWidth} {c : BitFieldSpec} (h : c.Fits w) {v : Nat} (hv : v ≤ 255) :
    v / c.scale &&& c.mask = v / c.scale := by
  rw [h.mask_eq]
  exact Nat.and_two_pow_sub_one_of_lt_two_pow (quotient_lt h hv)

theorem recompose_and_field {w : WordWidth} {c : BitFieldSpec} (h : c.Fits w) {v : Nat} (hv : v ≤ 255) :
    recompose c v &&& (c.mask <<< c.shift) = recompose c v := by
  rw [recompose, ← Nat.shiftLeft_and_distrib, quotient_and_mask h hv]

/-- Settles O9: the field conditions keep the quotient inside the mask, so the shifted quotient stays inside the shifted mask
without being masked; `packPixel` is the OR by definition. -/
theorem recomposeYieldsOnlyItsField : Obligations.RecomposeYieldsOnlyItsField :=
  ⟨fun _ _ hwf _ hv => ⟨rfl, recompose_and_field (BitFieldSpec.fits_of_wf hwf) hv⟩, fun _ _ => rfl⟩

/-- Settles O10: `recompose` reads its value through the quotient by the scale alone. -/
theorem recomposeTruncates : Obligations.RecomposeTruncates := by
  intro c value
  refine ⟨?truncates, fun hscale => ?unscaled⟩
  case truncates => rw [recompose, recompose, ← Nat.div_eq_sub_mod_div]
  case unscaled => rw [recompose, hscale, Nat.div_one]

/-- Settles O7: the result is the raw field times the scale, and the raw field is at most the mask. -/
theorem decomposeIsRawFieldTimesScale : Obligations.DecomposeIsRawFieldTimesScale := fun c packed =>
  ⟨rfl, rawField_le c packed, Nat.dvd_mul_left _ _, Nat.mul_le_mul_right _ (rawField_le c packed)⟩

end Sys2Proof.Machine
end

section
/-! What the decoder makes of an encoded command (30_encoding R75): its header selects the command's own row, so only the check
of the payload's elements and the operands are left to each command. -/

namespace Sys2Proof

open Laws.HeaderMatchesRow (row Statement)

theorem ofCode_code (op : Opcode) : Opcode.ofCode op.code = some op := by
  cases op <;> rfl

theorem decode_encode_of_row {i : Instr} (hrow : Statement i)
    (hfault : (row i).elementFault (encode i).payload = none) (hoperands : (row i).assemble (encode i) = i) :
    decode (encode i) = .command i := by
  obtain ⟨hmask, hcode, -, hlen⟩ := hrow
  have hop : Opcode.ofCode (headerOp (encode i).header) = some (row i) := by rw [hcode, ofCode_code]
  simp [decode, hop, Opcode.decodeAs, hmask, hlen, hfault, hoperands]

theorem all_highBitsClear_byteWords (vs : List (BitVec 8)) : (vs.map byteWord).all highBitsClear = true := by
  simp [highBitsClear_byteWord]

theorem lowByte_byteWords (vs : List (BitVec 8)) : (vs.map byteWord).map lowByte = vs := by
  simp [lowByte_byteWord, Function.comp_def]

theorem decode_encode_supportsAll (names : List FmtId) :
    decode (encode (.supportsAll names)) = .command (.supportsAll names) :=
  decode_encode_of_row (Laws.HeaderMatchesRow.supportsAll names)
    (if_pos (all_highBitsClear_byteWords names)) (congrArg Instr.supportsAll (lowByte_byteWords names))

end Sys2Proof
end

section
/-! The registry queries SUPPORTS and SUPPORTS_ALL (41_registry R97, R99, R100): each is a question about which reads of the
ROM find an entry. -/

namespace Sys2Proof.Machine

theorem supports_iff_romAt_ne_none (rom : Registry) (name : FmtId) : supports rom name = true ↔ romAt rom name ≠ none := by
  rw [supports, Option.isSome_iff_ne_none]

theorem listSupported_reset : listSupported State.reset.rom = [0, 1, 2, 3, 4, 5] := rfl

theorem supports_reset_iff (name : FmtId) : supports State.reset.rom name = true ↔ name.toNat ≤ 5 := by
  rw [supports_iff_mem, listSupported_reset]
  revert name
  decide

/-- Settles O14: a name is supported iff its read finds an entry; the default table's names are 0 to 5. -/
theorem supportsIffRegistered : Obligations.SupportsIffRegistered :=
  ⟨supports_iff_romAt_ne_none, supports_reset_iff⟩

theorem supportsAll_iff (rom : Registry) (names : List FmtId) :
    supportsAll rom names = true ↔ ∀ x ∈ names, romAt rom x ≠ none := by
  simp only [supportsAll, List.all_eq_true, supports_iff_romAt_ne_none]

/-- The answer depends on which names are asked for, not on their order or repetition. -/
theorem supportsAll_congr (rom : Registry) {names names' : List FmtId} (h : ∀ x, x ∈ names ↔ x ∈ names') :
    supportsAll rom names = supportsAll rom names' := by
  rw [Bool.eq_iff_iff, supportsAll_iff, supportsAll_iff]
  simp only [h]

theorem boolWord_eq_ite {b : Bool} {P : Prop} [Decidable P] (h : b = true ↔ P) : boolWord b = if P then 1 else 0 := by
  simp only [boolWord, h]

theorem exec_supportsAll_of_boolWord {s : State} {names : List FmtId} {w : Word}
    (h : boolWord (supportsAll s.rom names) = w) :
    exec (.supportsAll names) s = .next { s with responses := s.responses ++ [⟨0x00000000, [w]⟩] } := by
  subst h
  exact State.complete_of_ok rfl

/-- Settles O16: the packet is the one the encoder writes; the answer is `supportsAll`, which is the conjunction over the names
and so depends on their set alone. -/
theorem supportsAllCommandCompletes : Obligations.SupportsAllCommandCompletes := by
  refine ⟨?packet, ?answer, ?empty, ?sameNames, ?examplePair⟩
  case packet => exact decode_encode_supportsAll
  case answer =>
    intro s names
    exact exec_supportsAll_of_boolWord (boolWord_eq_ite (supportsAll_iff s.rom names))
  case empty =>
    intro s
    exact exec_supportsAll_of_boolWord rfl
  case sameNames =>
    intro s names names' h
    rw [exec_supportsAll_of_boolWord rfl, exec_supportsAll_of_boolWord rfl, supportsAll_congr s.rom h]
  case examplePair =>
    intro s hrom
    have hboth : supportsAll s.rom [0x01, 0x05] = true := by
      simp [supportsAll, hrom, supports_reset_iff]
    exact exec_supportsAll_of_boolWord (congrArg boolWord hboth)

end Sys2Proof.Machine
end

section
/-! The packets of DECODE and ENCODE (30_encoding R63, R66, R69): the encoder's packets, and the header of a command whose only
header operand is its format. -/

namespace Sys2Proof

theorem header_format (op : BitVec 8) (name : FmtId) :
    header op name 0 0 = op.setWidth 32 <<< 24 ||| name.setWidth 32 <<< 16 := by
  simp [header]

theorem decode_encode_decode (packed : Word) (name : FmtId) :
    decode (encode (.decode packed name)) = .command (.decode packed name) :=
  decode_encode_of_row (Laws.HeaderMatchesRow.decode packed name) rfl
    (congrArg (Instr.decode packed) (headerFa_header 0x07 name 0 0))

theorem decode_encode_encode (cs : List Component) (name : FmtId) :
    decode (encode (.encode cs name)) = .command (.encode cs name) :=
  decode_encode_of_row (Laws.HeaderMatchesRow.encode cs name) (if_pos (all_highBitsClear_byteWords cs))
    (congrArg₂ Instr.encode (lowByte_byteWords cs) (headerFa_header 0x08 name 0 0))

end Sys2Proof
end

section
/-! The pixel codec (42_codec): what the functions of DECODE and ENCODE return, and the response each command completes with,
by what the registry read finds. -/

namespace Sys2Proof.Machine

/-! Lanes and pixels. -/

/-- Bits above a well-formed format's width reach no lane (30_encoding R68). -/
theorem unpackPixel_pixelOperand {d : FormatDescriptor} (h : d.wf = true) (packed : Word) :
    unpackPixel d (pixelOperand d.wordWidth packed) = unpackPixel d packed.toNat := by
  obtain ⟨hr, hg, hb, ha⟩ := FormatDescriptor.channels_fit h
  simp only [unpackPixel, decompose_pixelOperand hr, decompose_pixelOperand hg, decompose_pixelOperand hb,
    decompose_pixelOperand ha]

theorem recompose_of_lt_scale {c : BitFieldSpec} {v : Nat} (h : v < c.scale) : recompose c v = 0 := by
  rw [recompose, Nat.div_eq_of_lt h, Nat.zero_shiftLeft]

theorem recompose_zero (c : BitFieldSpec) : recompose c 0 = 0 := by
  rw [recompose, Nat.zero_div, Nat.zero_shiftLeft]

theorem packPixel_zero (d : FormatDescriptor) : packPixel d ⟨0, 0, 0, 0⟩ = 0 := by
  simp only [packPixel, recompose_zero, Nat.or_self]

/-! The two functions. -/

theorem decodeResult_some {rom : Registry} {name : FmtId} {d : FormatDescriptor} (h : romAt rom name = some d)
    (packed : Word) : decodeResult rom packed name =
      .ok ((lanesInOrder (unpackPixel d (pixelOperand d.wordWidth packed))).map valueWord) := by
  simp only [decodeResult, decodePixel, resolve_some h]

theorem decodeResult_none {rom : Registry} {name : FmtId} (h : romAt rom name = none) (packed : Word) :
    decodeResult rom packed name = .error .unknownFormat := by
  simp only [decodeResult, decodePixel, resolve_none h]

theorem encodeResult_four {rom : Registry} {name : FmtId} {d : FormatDescriptor} (h : romAt rom name = some d)
    (r g b a : Component) :
    encodeResult rom [r, g, b, a] name = .ok [valueWord (packPixel d ⟨r.toNat, g.toNat, b.toNat, a.toNat⟩)] := by
  simp only [encodeResult, encodePixel, resolve_some h, List.map, componentOperand]

theorem encodeResult_none {rom : Registry} {name : FmtId} (h : romAt rom name = none) (cs : List Component) :
    encodeResult rom cs name = .error .unknownFormat := by
  simp only [encodeResult, encodePixel, resolve_none h]

/-- Past the format check only a list of four matches the lanes (42_codec R113). -/
theorem encodePixel_of_length_ne_four {rom : Registry} {name : FmtId} {d : FormatDescriptor}
    (h : romAt rom name = some d) {vs : List Nat} (hlen : vs.length ≠ 4) :
    encodePixel rom vs name = .error .componentCountMismatch := by
  simp only [encodePixel, resolve_some h]
  split
  · exact absurd rfl hlen
  · rfl

theorem encodeResult_of_length_ne_four {rom : Registry} {name : FmtId} {d : FormatDescriptor}
    (h : romAt rom name = some d) {cs : List Component} (hlen : cs.length ≠ 4) :
    encodeResult rom cs name = .error .componentCountMismatch := by
  have hmap : (cs.map componentOperand).length ≠ 4 := by rwa [List.length_map]
  simp only [encodeResult, encodePixel_of_length_ne_four h hmap]

/-! The two commands. -/

theorem exec_decode_of_romAt {s : State} {name : FmtId} {d : FormatDescriptor} (h : romAt s.rom name = some d)
    (packed : Word) : exec (.decode packed name) s = .next { s with responses := s.responses ++
      [⟨0x00000000, (lanesInOrder (unpackPixel d (pixelOperand d.wordWidth packed))).map valueWord⟩] } :=
  State.complete_of_ok (decodeResult_some h packed)

theorem exec_encode_of_packPixel {s : State} {name : FmtId} {d : FormatDescriptor} (h : romAt s.rom name = some d)
    {r g b a : Component} {pixel : Nat} (hpixel : packPixel d ⟨r.toNat, g.toNat, b.toNat, a.toNat⟩ = pixel) :
    exec (.encode [r, g, b, a] name) s =
      .next { s with responses := s.responses ++ [⟨0x00000000, [valueWord pixel]⟩] } := by
  subst hpixel
  exact State.complete_of_ok (encodeResult_four h r g b a)

theorem exec_encode_of_length_ne_four {s : State} {name : FmtId} {d : FormatDescriptor} (h : romAt s.rom name = some d)
    {cs : List Component} (hlen : cs.length ≠ 4) :
    exec (.encode cs name) s = .next { s with responses := s.responses ++ [⟨0x00000003, []⟩] } :=
  State.complete_of_error (encodeResult_of_length_ne_four h hlen)

/-! The default table. -/

/-- Every entry of the reset registry is the one a read of its own name finds. -/
theorem romAt_reset_name : ∀ d ∈ State.reset.rom.entries, romAt State.reset.rom d.name = some d := by
  decide

/-- The default table uses every bit of its words (42_codec R112; D4, D5 fix the 16-bit entries). -/
theorem packPixel_reset_max :
    ∀ d ∈ State.reset.rom.entries, packPixel d ⟨255, 255, 255, 255⟩ = 2 ^ d.wordWidth.bits - 1 := by
  decide

/-- Settles O20: a well-formed format's lanes do not see the bits its width cuts off, so the four words are the lanes of the
whole payload word; the read of an unregistered format is the only failure. -/
theorem decodeCommandCompletes : Obligations.DecodeCommandCompletes := by
  refine ⟨?packet, ?lanes, ?unregistered, ?allOnes⟩
  case packet =>
    intro packed name
    have hheader : header 0x07 name 0 0 = 0x07000000 ||| name.setWidth 32 <<< 16 := header_format 0x07 name
    rw [← hheader]
    exact decode_encode_decode packed name
  case lanes =>
    intro s packed name d hwf hd
    have hdwf : d.wf = true := Registry.wf_entry hwf (romAt_some_mem hd).1
    rw [exec_decode_of_romAt hd, unpackPixel_pixelOperand hdwf]
    rfl
  case unregistered =>
    intro s packed name hnone
    exact State.complete_of_error (decodeResult_none hnone packed)
  case allOnes =>
    intro s hrom
    have hd : romAt s.rom Rom.rgba4444.name = some Rom.rgba4444 := by
      rw [hrom]
      exact romAt_reset_name _ (by decide)
    exact exec_decode_of_romAt hd 0x0000FFFF

/-- Settles O22: the format is resolved before the components are counted, so the three outcomes exclude each other; on four
components the word is `packPixel`, which is all ones, or zero, at the ends of the default table's range. -/
theorem encodeCommandCompletes : Obligations.EncodeCommandCompletes := by
  refine ⟨?packet, ?fourLanes, ?unregistered, ?otherCount, ?belowScale, ?extremes, ?redAndAlpha⟩
  case packet =>
    intro cs name
    have hheader : header 0x08 name 0 0 = 0x08000000 ||| name.setWidth 32 <<< 16 := header_format 0x08 name
    rw [← hheader]
    exact decode_encode_encode cs name
  case fourLanes =>
    intro s r g b a name d hd
    exact exec_encode_of_packPixel hd rfl
  case unregistered =>
    intro s cs name hnone
    exact State.complete_of_error (encodeResult_none hnone cs)
  case otherCount =>
    intro s cs name d hd hlen
    exact exec_encode_of_length_ne_four hd hlen
  case belowScale =>
    intro c v h
    exact recompose_of_lt_scale h
  case extremes =>
    intro s hrom d hd
    rw [hrom] at hd
    have hread : romAt s.rom d.name = some d := hrom ▸ romAt_reset_name d hd
    exact ⟨exec_encode_of_packPixel hread (packPixel_reset_max d hd), exec_encode_of_packPixel hread (packPixel_zero d)⟩
  case redAndAlpha =>
    intro s hrom
    have hd : romAt s.rom Rom.argb8888.name = some Rom.argb8888 := by
      rw [hrom]
      exact romAt_reset_name _ (by decide)
    have hpixel : packPixel Rom.argb8888 ⟨0xFF, 0, 0, 0xFF⟩ = 0xFFFF0000 := by decide
    exact exec_encode_of_packPixel hd hpixel

/-- Settles O23: a supported name's read finds a descriptor, and past that read any count but four is the mismatch. -/
theorem encodeRejectsEveryOtherCount : Obligations.EncodeRejectsEveryOtherCount := by
  intro s cs name hsup hlen
  obtain ⟨d, hd⟩ : ∃ d, romAt s.rom name = some d := Option.isSome_iff_exists.mp hsup
  exact exec_encode_of_length_ne_four hd hlen

end Sys2Proof.Machine
end

section
/-! The packet of CONVERT (30_encoding R63, R66): a header with two format operands, and the pixel words as they are. -/

namespace Sys2Proof

theorem header_twoFormats (op : BitVec 8) (source target : FmtId) :
    header op source target 0 = op.setWidth 32 <<< 24 ||| source.setWidth 32 <<< 16 ||| target.setWidth 32 <<< 8 := by
  simp [header]

theorem decode_encode_convert (pixels : List Word) (source target : FmtId) :
    decode (encode (.convert pixels source target)) = .command (.convert pixels source target) :=
  decode_encode_of_row (Laws.HeaderMatchesRow.convert pixels source target) rfl
    (congrArg₂ (Instr.convert pixels) (headerFa_header 0x09 source target 0) (headerFb_header 0x09 source target 0))

end Sys2Proof
end

section
/-! The converter pipeline (43_pipeline R119, R121): what CONVERT's function returns by what the two registry reads find, and
what one pixel becomes. -/

namespace Sys2Proof.Machine

theorem convertResult_some {rom : Registry} {source target : FmtId} {f t : FormatDescriptor}
    (hf : romAt rom source = some f) (ht : romAt rom target = some t) (pixels : List Word) :
    convertResult rom pixels source target = .ok (pixels.map (convertPixel f t)) := by
  simp only [convertResult, hf, ht]

/-- One unregistered identifier, in either position, is enough for the error. -/
theorem convertResult_of_none {rom : Registry} {source target : FmtId}
    (h : romAt rom source = none ∨ romAt rom target = none) (pixels : List Word) :
    convertResult rom pixels source target = .error .unsupportedFormatPair := by
  obtain hsource | htarget := h
  · simp only [convertResult, hsource]
  · cases hsource : romAt rom source <;> simp only [convertResult, hsource, htarget]

theorem exec_convert_of_map {s : State} {source target : FmtId} {f t : FormatDescriptor}
    (hf : romAt s.rom source = some f) (ht : romAt s.rom target = some t) {pixels out : List Word}
    (hout : pixels.map (convertPixel f t) = out) :
    exec (.convert pixels source target) s = .next { s with responses := s.responses ++ [⟨0x00000000, out⟩] } := by
  subst hout
  exact State.complete_of_ok (convertResult_some hf ht pixels)

/-- A well-formed source format's lanes read the whole payload word (30_encoding R68). -/
theorem convertPixel_of_wf {f : FormatDescriptor} (h : f.wf = true) (t : FormatDescriptor) (pixel : Word) :
    convertPixel f t pixel = valueWord (packPixel t (unpackPixel f pixel.toNat)) := by
  rw [convertPixel, unpackPixel_pixelOperand h]

/-- Settles O27: past the format check CONVERT maps one function over the pixels, the decoding of the whole payload word and
then the encoding; the check is the only failure. -/
theorem convertCommandCompletes : Obligations.ConvertCommandCompletes := by
  refine ⟨?packet, ?pixelByPixel, ?unregistered, ?zeroPixel⟩
  case packet =>
    intro pixels source target
    have hheader : header 0x09 source target 0 =
        0x09000000 ||| source.setWidth 32 <<< 16 ||| target.setWidth 32 <<< 8 := header_twoFormats 0x09 source target
    rw [← hheader]
    exact decode_encode_convert pixels source target
  case pixelByPixel =>
    intro s pixels source target f t hwf hf ht
    have hfwf : f.wf = true := Registry.wf_entry hwf (romAt_some_mem hf).1
    exact exec_convert_of_map hf ht (List.map_congr_left fun p _ => convertPixel_of_wf hfwf t p)
  case unregistered =>
    intro s pixels source target hnone
    exact State.complete_of_error (convertResult_of_none hnone pixels)
  case zeroPixel =>
    intro s hrom
    have hread : ∀ d ∈ State.reset.rom.entries, romAt s.rom d.name = some d := hrom ▸ romAt_reset_name
    have hzero : [0x00000000].map (convertPixel Rom.rgba5551 Rom.argb8888) = [0x00000000] := by decide
    exact exec_convert_of_map (hread Rom.rgba5551 (by decide)) (hread Rom.argb8888 (by decide)) hzero

end Sys2Proof.Machine
end

section
/-! The errors of the commands (60_exceptions R129, R130): which errors each command's function can return and exactly when, and
that a response's status word tells which one it was. -/

namespace Sys2Proof.Machine

/-! What each function raises, by what its registry reads find. -/

theorem resolve_eq_error_iff {rom : Registry} {name : FmtId} {e : ErrorKind} :
    resolve rom name = .error e ↔ romAt rom name = none ∧ e = .unknownFormat := by
  cases h : romAt rom name with
  | none => simp [resolve_none h, @eq_comm _ e]
  | some d => simp [resolve_some h]

theorem resolveResult_eq_error_iff {rom : Registry} {name : FmtId} {e : ErrorKind} :
    resolveResult rom name = .error e ↔ romAt rom name = none ∧ e = .unknownFormat := by
  rw [← resolve_eq_error_iff]
  cases h : resolve rom name <;> simp [resolveResult, h]

theorem decomposeResult_eq_error_iff {rom : Registry} {name : FmtId} {ch : Channel} {packed : Word} {e : ErrorKind} :
    decomposeResult rom name ch packed = .error e ↔ romAt rom name = none ∧ e = .unknownFormat := by
  rw [← resolve_eq_error_iff]
  cases h : resolve rom name <;> simp [decomposeResult, h]

theorem recomposeResult_eq_error_iff {rom : Registry} {name : FmtId} {ch : Channel} {value : Component} {e : ErrorKind} :
    recomposeResult rom name ch value = .error e ↔ romAt rom name = none ∧ e = .unknownFormat := by
  rw [← resolve_eq_error_iff]
  cases h : resolve rom name <;> simp [recomposeResult, h]

theorem decodeResult_eq_error_iff {rom : Registry} {name : FmtId} {packed : Word} {e : ErrorKind} :
    decodeResult rom packed name = .error e ↔ romAt rom name = none ∧ e = .unknownFormat := by
  cases h : romAt rom name with
  | none => simp [decodeResult_none h, @eq_comm _ e]
  | some d => simp [decodeResult_some h]

/-- ENCODE alone has a second error, and only past the format check (60_exceptions R133). -/
theorem encodeResult_eq_error_iff {rom : Registry} {name : FmtId} {cs : List Component} {e : ErrorKind} :
    encodeResult rom cs name = .error e ↔
      (romAt rom name = none ∧ e = .unknownFormat) ∨
      (romAt rom name ≠ none ∧ cs.length ≠ 4 ∧ e = .componentCountMismatch) := by
  cases h : romAt rom name with
  | none => simp [encodeResult_none h, @eq_comm _ e]
  | some d =>
    by_cases hlen : cs.length = 4
    · obtain ⟨r, g, b, a, rfl⟩ := List.length_eq_four.mp hlen
      simp [encodeResult_four h]
    · simp [encodeResult_of_length_ne_four h hlen, hlen, @eq_comm _ e]

theorem convertResult_eq_error_iff {rom : Registry} {pixels : List Word} {source target : FmtId} {e : ErrorKind} :
    convertResult rom pixels source target = .error e ↔
      (romAt rom source = none ∨ romAt rom target = none) ∧ e = .unsupportedFormatPair := by
  by_cases hnone : romAt rom source = none ∨ romAt rom target = none
  · simp [convertResult_of_none hnone, hnone, @eq_comm _ e]
  · obtain ⟨hsource, htarget⟩ := not_or.mp hnone
    obtain ⟨f, hf⟩ := Option.ne_none_iff_exists'.mp hsource
    obtain ⟨t, ht⟩ := Option.ne_none_iff_exists'.mp htarget
    simp [convertResult_some hf ht, hf, ht]

/-! Which command raises which error. -/

/-- The condition the spec puts on each error: which commands raise it, and when (60_exceptions R129, R130, R132, R133). -/
def Raises (rom : Registry) (i : Instr) : ErrorKind → Prop
  | .unknownFormat => ∃ name : FmtId, romAt rom name = none ∧
      (i = .resolve name ∨ (∃ ch p, i = .decompose name ch p) ∨ (∃ ch v, i = .recompose name ch v) ∨
       (∃ p, i = .decode p name) ∨ (∃ cs, i = .encode cs name))
  | .unsupportedFormatPair => ∃ pixels source target, i = .convert pixels source target ∧
      (romAt rom source = none ∨ romAt rom target = none)
  | .componentCountMismatch => ∃ cs name, i = .encode cs name ∧ romAt rom name ≠ none ∧ cs.length ≠ 4

/-- The model raises each error exactly on the spec's condition. -/
theorem resultOf_eq_error_iff {rom : Registry} {i : Instr} {e : ErrorKind} :
    resultOf rom i = .error e ↔ Raises rom i e := by
  cases i with
  | supports | supportsAll | listSupported => cases e <;> simp [resultOf, Raises]
  | resolve => cases e <;> simp [resultOf, Raises, resolveResult_eq_error_iff]
  | decompose => cases e <;> simp [resultOf, Raises, decomposeResult_eq_error_iff]
  | recompose => cases e <;> simp [resultOf, Raises, recomposeResult_eq_error_iff]
  | decode => cases e <;> simp [resultOf, Raises, decodeResult_eq_error_iff]
  | encode => cases e <;> simp [resultOf, Raises, encodeResult_eq_error_iff]
  | convert => cases e <;> simp [resultOf, Raises, convertResult_eq_error_iff]

/-! What the response tells of the error. -/

theorem ErrorKind.statusOk_ne_status (e : ErrorKind) : statusOk ≠ e.status := by
  cases e <;> decide

theorem ErrorKind.status_inj {e e' : ErrorKind} : e.status = e'.status ↔ e = e' := by
  cases e <;> cases e' <;> decide

/-- The status words are distinct, so a response's status gives its error back (60_exceptions R128). -/
theorem responseOf_status_eq_iff {rom : Registry} {res : Except ErrorKind (List Word)} {e : ErrorKind} :
    (responseOf rom res).status = e.status ↔ res = .error e := by
  cases res with
  | ok ws => simp [responseOf, ErrorKind.statusOk_ne_status]
  | error e' => simp [responseOf, ErrorKind.status_inj]

/-- Every command adds one response; its status is that of `e` iff the command meets the condition of `e`, and then its
payload is the error's. -/
theorem exec_response_of_errorKind (e : ErrorKind) (i : Instr) (s : State) : ∃ r : Response,
    exec i s = .next { s with responses := s.responses ++ [r] } ∧
    (r.status = e.status ↔ Raises s.rom i e) ∧
    (r.status = e.status → r.payload = errorPayload s.rom e) := by
  refine ⟨responseOf s.rom (resultOf s.rom i), ?completes,
    responseOf_status_eq_iff.trans resultOf_eq_error_iff, fun hstatus => ?payload⟩
  case completes =>
    rw [exec_eq_complete, State.complete_eq]
    rfl
  case payload =>
    rw [responseOf_status_eq_iff.mp hstatus]
    rfl

/-- Settles O32: the condition of UnknownFormat is that of the five resolving commands, and its payload the listed names, which
at reset are the six of the default table. -/
theorem unknownFormatExactlyWhenUnresolved : Obligations.UnknownFormatExactlyWhenUnresolved :=
  ⟨exec_response_of_errorKind .unknownFormat, congrArg (List.map nameWord) listSupported_reset⟩

/-- Settles O33: the condition of UnsupportedFormatPair is that of CONVERT with an unregistered identifier, and its payload is
empty. -/
theorem unsupportedPairExactlyWhenUnregistered : Obligations.UnsupportedPairExactlyWhenUnregistered :=
  exec_response_of_errorKind .unsupportedFormatPair

end Sys2Proof.Machine
end

section
/-! The round trip of packets (30_encoding R75): decoding what the encoder writes, and encoding what the decoder reads. -/

namespace Sys2Proof

open Laws.HeaderMatchesRow (row Statement)

/-! From a command to its packet and back. -/

theorem headerMatchesRow (i : Instr) : Statement i := by
  cases i with
  | supports name => exact Laws.HeaderMatchesRow.supports name
  | supportsAll names => exact Laws.HeaderMatchesRow.supportsAll names
  | listSupported => exact Laws.HeaderMatchesRow.listSupported
  | resolve name => exact Laws.HeaderMatchesRow.resolve name
  | decompose name ch packed => exact Laws.HeaderMatchesRow.decompose name ch packed
  | recompose name ch value => exact Laws.HeaderMatchesRow.recompose name ch value
  | decode packed name => exact Laws.HeaderMatchesRow.decode packed name
  | encode components name => exact Laws.HeaderMatchesRow.encode components name
  | convert pixels source target => exact Laws.HeaderMatchesRow.convert pixels source target

theorem length_payload_encode (i : Instr) : (encode i).payload.length = i.payloadLength := by
  obtain ⟨-, -, hlen, -⟩ := headerMatchesRow i
  exact hlen

/-- The channel the decoder reads from a header is the one the encoder wrote into `aux`. -/
theorem ofIndex_headerCh_header (op : BitVec 8) (fa fb : FmtId) (ch : Channel) :
    Channel.ofIndex (headerCh (header op fa fb ch.index)) = ch := by
  rw [headerCh_header, ofIndex_index]

theorem decode_encode_decompose (name : FmtId) (ch : Channel) (packed : Word) :
    decode (encode (.decompose name ch packed)) = .command (.decompose name ch packed) :=
  decode_encode_of_row (Laws.HeaderMatchesRow.decompose name ch packed) rfl
    (congrArg₂ (Instr.decompose · · packed) (headerFa_header 0x05 name 0 ch.index) (ofIndex_headerCh_header 0x05 name 0 ch))

theorem decode_encode_recompose (name : FmtId) (ch : Channel) (value : Component) :
    decode (encode (.recompose name ch value)) = .command (.recompose name ch value) := by
  refine decode_encode_of_row (Laws.HeaderMatchesRow.recompose name ch value)
    (if_pos (all_highBitsClear_byteWords [value])) ?operands
  calc Opcode.assemble .recompose (encode (.recompose name ch value))
    _ = .recompose (headerFa (header 0x06 name 0 ch.index)) (.ofIndex (headerCh (header 0x06 name 0 ch.index)))
        (lowByte (byteWord value)) := rfl
    _ = .recompose name ch value := by rw [headerFa_header, ofIndex_headerCh_header, lowByte_byteWord]

theorem decode_encode (i : Instr) : decode (encode i) = .command i := by
  cases i with
  | supports name =>
    exact decode_encode_of_row (Laws.HeaderMatchesRow.supports name) rfl
      (congrArg Instr.supports (headerFa_header 0x01 name 0 0))
  | supportsAll names => exact decode_encode_supportsAll names
  | listSupported => exact decode_encode_of_row Laws.HeaderMatchesRow.listSupported rfl rfl
  | resolve name =>
    exact decode_encode_of_row (Laws.HeaderMatchesRow.resolve name) rfl
      (congrArg Instr.resolve (headerFa_header 0x04 name 0 0))
  | decompose name ch packed => exact decode_encode_decompose name ch packed
  | recompose name ch value => exact decode_encode_recompose name ch value
  | decode packed name => exact decode_encode_decode packed name
  | encode components name => exact decode_encode_encode components name
  | convert pixels source target => exact decode_encode_convert pixels source target

/-- What a block makes of a packet that decodes is decided by its length alone (30_encoding R78). -/
theorem accept_of_decode {p : Packet} {i : Instr} (h : decode p = .command i) (maxLen : Option Nat) :
    accept maxLen p = if withinMaxLen maxLen p.payload.length = true then .command i else .reserved .payloadTooLong := by
  simp only [accept, h]

/-- Settles O38: each command's packet is selected by its own row and its operands are read back from where they were
written; the packet has the command's length, which is all that `MAX_LEN` looks at. -/
theorem decodeOfEncode : Obligations.DecodeOfEncode := by
  refine ⟨decode_encode, fun maxLen i => ?accepts⟩
  rw [accept_of_decode (decode_encode i), length_payload_encode]
  rfl

/-- Settles O41: each packet is the one the encoder writes for its command. -/
theorem writtenPacketsDecode : Obligations.WrittenPacketsDecode :=
  ⟨decode_encode (.supports 0x05), decode_encode (.decompose 0x00 .g 0x0000ABCD), decode_encode (.recompose 0x01 .r 0xFF),
    decode_encode (.encode [0xFF, 0, 0, 0xFF] 0x05), decode_encode (.convert [0x00000000] 0x01 0x05)⟩

/-! From a packet to its command and back. -/

/-- The one payload length a row allows, where there is only one (30_encoding R76). -/
def Opcode.onlyLength : Opcode → Option Nat
  | .supports | .listSupported | .resolve => some 0
  | .decompose | .recompose | .decode => some 1
  | .supportsAll | .encode | .convert => none

/-- Whether a row's payload words hold one byte each, as component and name words do (30_encoding R69, R70). -/
def Opcode.byteElements : Opcode → Bool
  | .supportsAll | .recompose | .encode => true
  | .supports | .listSupported | .resolve | .decompose | .decode | .convert => false

theorem Opcode.lengthLegal_iff {op : Opcode} {n : Nat} :
    op.lengthLegal n = true ↔ ∀ k, op.onlyLength = some k → n = k := by
  cases op <;> simp [Opcode.lengthLegal, Opcode.onlyLength]

theorem all_highBitsClear_iff {ws : List Word} : ws.all highBitsClear = true ↔ ∀ w ∈ ws, w.toNat < 256 := by
  simp only [List.all_eq_true, highBitsClear_iff]

theorem Opcode.elementFault_eq_none_iff {op : Opcode} {ws : List Word} :
    op.elementFault ws = none ↔ (op.byteElements = true → ws.all highBitsClear = true) := by
  cases op <;> simp [Opcode.elementFault, Opcode.byteElements]

/-- The row selects the packet: its header fits `mask` and `match`, its length and its payload words are legal there (30_encoding
R75, steps (2) to (4)). -/
structure Opcode.Selects (op : Opcode) (p : Packet) : Prop where
  masked : p.header &&& op.mask = op.pattern
  length : ∀ n, op.onlyLength = some n → p.payload.length = n
  bytes : op.byteElements = true → p.payload.all highBitsClear = true

theorem Opcode.decodeAs_eq_command_iff {op : Opcode} {p : Packet} {i : Instr} :
    op.decodeAs p = .command i ↔ op.Selects p ∧ op.assemble p = i := by
  constructor
  case mp =>
    intro h
    rw [Opcode.decodeAs] at h
    split at h
    · cases h
    split at h
    · cases h
    split at h
    · cases h
    next hmasked hlen _ hfault =>
      exact ⟨⟨not_not.mp hmasked, lengthLegal_iff.mp (Bool.eq_true_of_not_eq_false hlen), elementFault_eq_none_iff.mp hfault⟩,
        Verdict.command.inj h⟩
  case mpr =>
    rintro ⟨⟨hmasked, hlen, hbytes⟩, rfl⟩
    simp [Opcode.decodeAs, hmasked, lengthLegal_iff.mpr hlen, elementFault_eq_none_iff.mpr hbytes]

/-- A row's mask covers the whole `op` byte, so the row fixes `op`; what the mask covers of the other fields is zero. -/
theorem Opcode.fields_of_masked {op : Opcode} {h : Word} (hmasked : h &&& op.mask = op.pattern) :
    headerOp h = op.code ∧ headerFa h &&& headerFa op.mask = 0 ∧ headerFb h &&& headerFb op.mask = 0 ∧
      h.setWidth 8 &&& op.mask.setWidth 8 = 0 := by
  have hmask : headerOp op.mask = BitVec.allOnes 8 := by cases op <;> rfl
  have hpattern : headerOp op.pattern = op.code ∧ headerFa op.pattern = 0 ∧ headerFb op.pattern = 0 ∧
      op.pattern.setWidth 8 = 0 := by cases op <;> exact ⟨rfl, rfl, rfl, rfl⟩
  rw [← hmasked] at hpattern
  obtain ⟨hop, hfa, hfb, haux⟩ := hpattern
  refine ⟨?op, BitVec.extractLsb'_and.symm.trans hfa, BitVec.extractLsb'_and.symm.trans hfb,
    BitVec.setWidth_and.symm.trans haux⟩
  calc headerOp h
    _ = headerOp h &&& headerOp op.mask := by rw [hmask, BitVec.and_allOnes]
    _ = headerOp (h &&& op.mask) := BitVec.extractLsb'_and.symm
    _ = op.code := hop

/-- Inversion of the decoder: a packet decodes exactly when some row selects it, to the operands that row assembles. -/
theorem decode_eq_command_iff {p : Packet} {i : Instr} :
    decode p = .command i ↔ ∃ op : Opcode, op.Selects p ∧ op.assemble p = i := by
  constructor
  case mp =>
    intro h
    rw [decode] at h
    split at h
    · cases h
    next op _ => exact ⟨op, Opcode.decodeAs_eq_command_iff.mp h⟩
  case mpr =>
    rintro ⟨op, hselects, rfl⟩
    obtain ⟨hop, -⟩ := Opcode.fields_of_masked hselects.masked
    simp only [decode, hop, ofCode_code]
    exact Opcode.decodeAs_eq_command_iff.mpr ⟨hselects, rfl⟩

/-! The parts of a selected packet. -/

theorem header_eq_of_fields {h : Word} {op : BitVec 8} {fa fb : FmtId} {aux : BitVec 8} (hop : headerOp h = op)
    (hfa : headerFa h = fa) (hfb : headerFb h = fb) (haux : h.setWidth 8 = aux) : header op fa fb aux = h := by
  rw [← hop, ← hfa, ← hfb, ← haux, header_fields]

theorem eq_zero_of_and_FF {v : BitVec 8} (h : v &&& 0xFF = 0) : v = 0 := by
  rwa [show (0xFF : BitVec 8) = BitVec.allOnes 8 from rfl, BitVec.and_allOnes] at h

theorem headerCh_eq_setWidth (h : Word) : headerCh h = (h.setWidth 8).setWidth 2 := by
  conv_lhs => rw [← header_fields h]
  exact headerCh_header _ _ _ _

/-- A byte whose upper six bits are zero is made of its two lower ones. -/
theorem setWidth_setWidth_two_of_and_FC : ∀ v : BitVec 8, v &&& 0xFC = 0 → (v.setWidth 2).setWidth 8 = v := by decide

/-- Where only `aux[1:0]` may be set, `aux` is the index of the channel the decoder reads. -/
theorem aux_eq_index {h : Word} (haux : h.setWidth 8 &&& 0xFC = 0) :
    h.setWidth 8 = (Channel.ofIndex (headerCh h)).index := by
  rw [index_ofIndex, headerCh_eq_setWidth, setWidth_setWidth_two_of_and_FC _ haux]

theorem singleton_firstElement {ws : List Word} (h : ws.length = 1) : [firstElement ws] = ws := by
  obtain ⟨w, rfl⟩ := List.length_eq_one_iff.mp h
  rfl

theorem byteWords_lowBytes {ws : List Word} (h : ws.all highBitsClear = true) : (ws.map lowByte).map byteWord = ws := by
  rw [List.map_map]
  exact (List.map_congr_left fun w hw => byteWord_lowByte (List.all_eq_true.mp h w hw)).trans (List.map_id ws)

theorem packet_eq {p : Packet} {h : Word} {ws : List Word} (hheader : h = p.header) (hpayload : ws = p.payload) :
    (⟨h, ws⟩ : Packet) = p := by
  subst hheader hpayload
  rfl

/-- Every header bit is under the row's mask or in an operand, and every payload word is an operand, so the operands give the
packet back. -/
theorem encode_assemble {op : Opcode} {p : Packet} (h : op.Selects p) : encode (op.assemble p) = p := by
  obtain ⟨hmasked, hlen, hbytes⟩ := h
  obtain ⟨hop, hfa, hfb, haux⟩ := Opcode.fields_of_masked hmasked
  cases op with
  | supports | resolve =>
    exact packet_eq (header_eq_of_fields hop rfl (eq_zero_of_and_FF hfb) (eq_zero_of_and_FF haux))
      (List.eq_nil_of_length_eq_zero (hlen 0 rfl)).symm
  | listSupported =>
    exact packet_eq (header_eq_of_fields hop (eq_zero_of_and_FF hfa) (eq_zero_of_and_FF hfb) (eq_zero_of_and_FF haux))
      (List.eq_nil_of_length_eq_zero (hlen 0 rfl)).symm
  | supportsAll =>
    exact packet_eq (header_eq_of_fields hop (eq_zero_of_and_FF hfa) (eq_zero_of_and_FF hfb) (eq_zero_of_and_FF haux))
      (byteWords_lowBytes (hbytes rfl))
  | decompose =>
    exact packet_eq (header_eq_of_fields hop rfl (eq_zero_of_and_FF hfb) (aux_eq_index haux))
      (singleton_firstElement (hlen 1 rfl))
  | recompose =>
    have hone := singleton_firstElement (hlen 1 rfl)
    exact packet_eq (header_eq_of_fields hop rfl (eq_zero_of_and_FF hfb) (aux_eq_index haux))
      ((byteWords_lowBytes (hone.symm ▸ hbytes rfl)).trans hone)
  | decode =>
    exact packet_eq (header_eq_of_fields hop rfl (eq_zero_of_and_FF hfb) (eq_zero_of_and_FF haux))
      (singleton_firstElement (hlen 1 rfl))
  | encode =>
    exact packet_eq (header_eq_of_fields hop rfl (eq_zero_of_and_FF hfb) (eq_zero_of_and_FF haux))
      (byteWords_lowBytes (hbytes rfl))
  | convert => exact packet_eq (header_eq_of_fields hop rfl rfl (eq_zero_of_and_FF haux)) rfl

/-- Settles O39: a packet that decodes is selected by a row, and encoding the operands that row assembles rebuilds it. -/
theorem encodeOfDecode : Obligations.EncodeOfDecode := by
  intro p i h
  obtain ⟨op, hselects, rfl⟩ := decode_eq_command_iff.mp h
  exact encode_assemble hselects

/-! Which packets the decoder accepts. -/

/-- A row of spec/opcode_table.json: mask, match, the only legal length if there is one, whether the payload words are bytes. -/
def Opcode.tableRow (op : Opcode) : Word × Word × Option Nat × Bool := (op.mask, op.pattern, op.onlyLength, op.byteElements)

/-- The rows in the order of the table. -/
def Opcode.all : List Opcode :=
  [.supports, .supportsAll, .listSupported, .resolve, .decompose, .recompose, .decode, .encode, .convert]

theorem Opcode.mem_all (op : Opcode) : op ∈ Opcode.all := by cases op <;> decide

theorem exists_tableRow_iff {P : Word × Word × Option Nat × Bool → Prop} :
    (∃ row ∈ Opcode.all.map Opcode.tableRow, P row) ↔ ∃ op : Opcode, P op.tableRow := by
  simp [Opcode.mem_all]

/-- The conditions a row puts on a packet, read from its columns. -/
def RowAccepts (p : Packet) (row : Word × Word × Option Nat × Bool) : Prop :=
  p.header &&& row.1 = row.2.1 ∧ (∀ n, row.2.2.1 = some n → p.payload.length = n) ∧
    (row.2.2.2 = true → ∀ w ∈ p.payload, w.toNat < 256)

theorem Opcode.selects_iff {op : Opcode} {p : Packet} : op.Selects p ↔ RowAccepts p op.tableRow := by
  constructor
  case mp =>
    rintro ⟨hmasked, hlen, hbytes⟩
    exact ⟨hmasked, hlen, fun h => all_highBitsClear_iff.mp (hbytes h)⟩
  case mpr =>
    rintro ⟨hmasked, hlen, hbytes⟩
    exact ⟨hmasked, hlen, fun h => all_highBitsClear_iff.mpr (hbytes h)⟩

theorem exists_decode_iff {p : Packet} : (∃ i, decode p = .command i) ↔ ∃ op : Opcode, op.Selects p := by
  simp only [decode_eq_command_iff]
  exact ⟨fun ⟨_, op, hselects, _⟩ => ⟨op, hselects⟩, fun ⟨op, hselects⟩ => ⟨_, op, hselects, rfl⟩⟩

theorem Opcode.elementFault_ne_opcode (op : Opcode) (ws : List Word) : op.elementFault ws ≠ some .opcode := by
  cases op <;> simp [Opcode.elementFault]

/-- Past the opcode check no packet is refused on that ground. -/
theorem Opcode.decodeAs_ne_reserved_opcode (op : Opcode) (p : Packet) : op.decodeAs p ≠ .reserved .opcode := by
  intro h
  rw [Opcode.decodeAs] at h
  split at h
  · cases h
  split at h
  · cases h
  split at h
  next hfault =>
    obtain rfl := Verdict.reserved.inj h
    exact Opcode.elementFault_ne_opcode op p.payload hfault
  next => cases h

theorem ofCode_eq_none_iff : ∀ c : BitVec 8, Opcode.ofCode c = none ↔ c.toNat = 0 ∨ 10 ≤ c.toNat := by decide

theorem headerOp_toNat (h : Word) : (headerOp h).toNat = h.toNat / 2 ^ 24 := by
  have := h.isLt
  rw [headerOp, BitVec.extractLsb'_toNat, Nat.shiftRight_eq_div_pow]
  omega

theorem decode_eq_reserved_opcode_iff {p : Packet} :
    decode p = .reserved .opcode ↔ Opcode.ofCode (headerOp p.header) = none := by
  cases h : Opcode.ofCode (headerOp p.header) with
  | none => simp [decode, h]
  | some op => simp [decode, h, Opcode.decodeAs_ne_reserved_opcode]

/-- Settles O40: the packets some row selects are those that decode, and the rows are the table's; the opcode check fails
first, and on the codes outside 1 to 9. -/
theorem decoderAcceptsExactlyTheTable : Obligations.DecoderAcceptsExactlyTheTable := by
  intro p
  refine ⟨?accepted, ?opcode⟩
  case accepted =>
    calc (∃ i, decode p = .command i)
      _ ↔ ∃ op : Opcode, op.Selects p := exists_decode_iff
      _ ↔ ∃ op : Opcode, RowAccepts p op.tableRow := exists_congr fun _ => Opcode.selects_iff
      _ ↔ ∃ row ∈ Opcode.all.map Opcode.tableRow, RowAccepts p row := exists_tableRow_iff.symm
  case opcode => rw [decode_eq_reserved_opcode_iff, ofCode_eq_none_iff, headerOp_toNat]

end Sys2Proof
end

section
/-! Steps and whole runs (20_memory R54, 30_encoding R78, 70_reset R148 to R160): what a command adds to the list of responses,
what a step does by the packet it finds, and what a run of accepted packets leaves. -/

namespace Sys2Proof.Machine

/-! What a command adds. -/

/-- The response a command gets from a registry. -/
def responseTo (rom : Registry) (i : Instr) : Response := responseOf rom (resultOf rom i)

theorem exec_eq_next_answer (i : Instr) (s : State) : exec i s = .next (s.answer (responseTo s.rom i)) := by
  rw [exec_eq_complete, State.complete_eq]
  rfl

theorem responseTo_legal (rom : Registry) (i : Instr) : Response.legal rom (responseTo rom i) :=
  responseOf_legal rom (resultOf rom i)

/-- Settles O34: the condition of ComponentCountMismatch is that of ENCODE past the format check, and its payload is empty. -/
theorem countMismatchExactlyWhenNotFour : Obligations.CountMismatchExactlyWhenNotFour :=
  exec_response_of_errorKind .componentCountMismatch

/-- Settles O35: `exec` answers the next state for every command, with a response made by `responseOf`. -/
theorem everyCommandCompletesWithOneResponse : Obligations.EveryCommandCompletesWithOneResponse := fun i s =>
  ⟨responseTo s.rom i, exec_eq_next_answer i s, responseTo_legal s.rom i⟩

/-- Settles O37: the response is computed from the registry and the command. -/
theorem responseDependsOnCommandAndRegistryAlone : Obligations.ResponseDependsOnCommandAndRegistryAlone := by
  intro i s t hrom
  refine ⟨responseTo s.rom i, exec_eq_next_answer i s, ?_⟩
  rw [hrom]
  exact exec_eq_next_answer i t

/-- Settles O50: a command leaves the registry as it is, and a response depends on nothing else of the state. -/
theorem errorsDoNotStick : Obligations.ErrorsDoNotStick := by
  intro i j s t h
  obtain ⟨hrom, -⟩ := noCommandWritesAnythingElse i s t h
  exact responseDependsOnCommandAndRegistryAlone j s t hrom.symm

/-! The invariant. -/

/-- Settles O3: the default table passes the checks, and no response has been given. -/
theorem resetMeetsTheInvariant : Obligations.ResetMeetsTheInvariant where
  romWf := by decide
  responsesLegal := List.forall_mem_nil _

theorem State.Inv.answer {s : State} (h : s.Inv) {r : Response} (hr : Response.legal s.rom r) : (s.answer r).Inv where
  romWf := h.romWf
  responsesLegal := List.forall_mem_append.mpr ⟨h.responsesLegal, List.forall_mem_singleton.mpr hr⟩

/-- The invariant does not look at the pending commands. -/
theorem State.Inv.withCommands {s : State} (h : s.Inv) (ps : List Packet) : ({ s with commands := ps } : State).Inv :=
  ⟨h.romWf, h.responsesLegal⟩

/-- Settles O48: a step that does not wait takes a packet and answers one response, which is legal for the registry it leaves
as it is. -/
theorem stepKeepsTheInvariant : Obligations.StepKeepsTheInvariant := by
  intro s t hinv h
  obtain ⟨-, ⟨-, rfl⟩ | ⟨_, rest, i, -, -, rfl⟩⟩ := step_eq_next_cases h
  · exact hinv
  · exact (hinv.withCommands rest).answer (responseTo_legal s.rom i)

/-! What a step does, by what is pending. -/

theorem step_of_commands_nil {s : State} (hwf : s.rom.wf = true) (hcmd : s.commands = []) : step s = .next s := by
  rw [step, if_pos hwf, State.takeCommand_nil hcmd]

theorem step_of_accept {s : State} {p : Packet} {rest : List Packet} {i : Instr} (hwf : s.rom.wf = true)
    (hcmd : s.commands = p :: rest) (hacc : accept s.maxLen p = .command i) :
    step s = exec i { s with commands := rest } := by
  simp only [step, if_pos hwf, State.takeCommand_cons hcmd, hacc]

theorem step_of_refuse {s : State} {p : Packet} {rest : List Packet} {why : Reserved} (hwf : s.rom.wf = true)
    (hcmd : s.commands = p :: rest) (hacc : accept s.maxLen p = .reserved why) : step s = .refused (.reserved why) := by
  simp only [step, if_pos hwf, State.takeCommand_cons hcmd, hacc]

theorem withinMaxLen_iff {maxLen : Option Nat} {n : Nat} :
    withinMaxLen maxLen n = true ↔ ∀ m, maxLen = some m → n ≤ m := by
  cases maxLen <;> simp [withinMaxLen]

theorem accept_of_reserved {p : Packet} {why : Reserved} (h : decode p = .reserved why) (maxLen : Option Nat) :
    accept maxLen p = .reserved why := by
  simp only [accept, h]

/-- Settles O42: the packet decodes and is within the bound, so the block accepts it. -/
theorem stepRunsTheOldestCommand : Obligations.StepRunsTheOldestCommand := by
  intro s p rest i hwf hcmd hdec hlen
  exact step_of_accept hwf hcmd (accept_command_iff.mpr ⟨hdec, withinMaxLen_iff.mpr hlen⟩)

/-- Settles O43: a packet the decoder refuses is refused whatever its length, and one that decodes only for its length. -/
theorem stepRefusesReservedPackets : Obligations.StepRefusesReservedPackets := by
  refine ⟨?reserved, ?tooLong⟩
  case reserved =>
    intro s p rest why hwf hcmd hdec
    exact step_of_refuse hwf hcmd (accept_of_reserved hdec s.maxLen)
  case tooLong =>
    intro s p rest i m hwf hcmd hdec hmax hlen
    have hout : ¬ withinMaxLen s.maxLen p.payload.length = true := fun hin =>
      absurd (withinMaxLen_iff.mp hin m hmax) (Nat.not_le_of_lt hlen)
    exact step_of_refuse hwf hcmd ((accept_of_decode hdec s.maxLen).trans (if_neg hout))

/-- Settles O44: the check of the registry is the step's first. -/
theorem stepRefusesAnIllFormedRegistry : Obligations.StepRefusesAnIllFormedRegistry := fun s h => by
  rw [step, if_neg (Bool.eq_false_iff.mp h)]

/-- Settles O45: with no command pending nothing is taken. -/
theorem stepWaitsForACommand : Obligations.StepWaitsForACommand := fun _ => step_of_commands_nil

theorem decode_tablePacket_of_decodeTableWord {nbits w : Nat} {i : Instr} (h : decodeTableWord nbits w = some i) :
    decode (tablePacket nbits w) = .command i := by
  rw [decodeTableWord] at h
  split at h
  next hdec => rw [hdec, Option.some.inj h]
  next => cases h

/-- Settles O46: the placed packet is the oldest one, and without a bound every packet that decodes is accepted. -/
theorem stepRunsTheFetchWord : Obligations.StepRunsTheFetchWord := by
  intro s nbits w i hwf hmax hword
  refine stepRunsTheOldestCommand (s.withFetchWord nbits w) _ s.commands i hwf rfl
    (decode_tablePacket_of_decodeTableWord hword) fun m hm => ?_
  rw [State.withFetchWord_maxLen, hmax] at hm
  cases hm

/-! Runs of accepted packets. -/

theorem accepted_iff {maxLen : Option Nat} {p : Packet} :
    accepted maxLen p = true ↔ ∃ i, accept maxLen p = .command i := by
  rw [accepted]
  cases h : accept maxLen p <;> simp

/-- The response of a packet that is the only one ever issued to the block. -/
def AnsweredAlone (s : State) (p : Packet) (r : Response) : Prop :=
  step (s.alone p) = .next { s.alone p with commands := [], responses := [r] }

theorem answeredAlone_of_accept {s : State} {p : Packet} {i : Instr} (hwf : s.rom.wf = true)
    (hacc : accept s.maxLen p = .command i) : AnsweredAlone s p (responseTo s.rom i) :=
  (step_of_accept (s := s.alone p) hwf rfl hacc).trans (exec_eq_next_answer i _)

theorem run_zero (s : State) : Host.Core.run core 0 s = .next s := rfl

theorem run_succ_of_step {s t : State} (h : step s = .next t) (n : Nat) :
    Host.Core.run core (n + 1) s = Host.Core.run core n t := by
  have hcore : core.step s = .next t := h
  simp only [Host.Core.run, hcore]

/-- One step per pending packet, each answering what the packet gets alone: a step leaves the registry and `MAX_LEN`, which are all
that a later packet's response depends on. -/
theorem run_of_accepted (ps : List Packet) (s : State) (hwf : s.rom.wf = true) (hcmd : s.commands = ps)
    (hacc : ∀ p ∈ ps, accepted s.maxLen p = true) : ∃ rs : List Response,
      Host.Core.run core ps.length s = .next { s with commands := [], responses := s.responses ++ rs } ∧
      List.Forall₂ (AnsweredAlone s) ps rs := by
  induction ps generalizing s with
  | nil =>
    have hs : s = { s with commands := [], responses := s.responses ++ [] } := by rw [List.append_nil, ← hcmd]
    exact ⟨[], (run_zero s).trans (congrArg Host.Outcome.next hs), .nil⟩
  | cons p rest ih =>
    obtain ⟨hp, hrest⟩ := List.forall_mem_cons.mp hacc
    obtain ⟨i, hi⟩ := accepted_iff.mp hp
    have hstep := (step_of_accept hwf hcmd hi).trans (exec_eq_next_answer i _)
    obtain ⟨rs, hrun, halone⟩ := ih (State.answer { s with commands := rest } (responseTo s.rom i)) hwf rfl hrest
    refine ⟨responseTo s.rom i :: rs, ?_, .cons (answeredAlone_of_accept hwf hi) halone⟩
    calc Host.Core.run core (rest.length + 1) s
      _ = Host.Core.run core rest.length (State.answer { s with commands := rest } (responseTo s.rom i)) :=
        run_succ_of_step hstep _
      _ = .next { s with commands := [], responses := (s.responses ++ [responseTo s.rom i]) ++ rs } := hrun
      _ = .next { s with commands := [], responses := s.responses ++ responseTo s.rom i :: rs } := by
        rw [List.append_assoc, List.singleton_append]

/-- Settles O49: every pending packet is accepted, so a run of as many steps answers them one by one. -/
theorem runAnswersEveryCommandInOrder : Obligations.RunAnswersEveryCommandInOrder := fun s hwf hacc =>
  run_of_accepted s.commands s hwf rfl (List.all_eq_true.mp hacc)

end Sys2Proof.Machine
end

section
/-! The bit-field unit on specs that fit their word (10_state R19, 40_bitfield R86, R92): what a raw field is made of, and the two
compositions of `decompose` and `recompose`. -/

namespace Sys2Proof.Machine

theorem mask_eq_div {w : WordWidth} {c : BitFieldSpec} (h : c.Fits w) : c.mask = 255 / c.scale :=
  le_antisymm ((Nat.le_div_iff_mul_le h.scale_pos).mpr h.value_le) h.raw_le

theorem mask_le {w : WordWidth} {c : BitFieldSpec} (h : c.Fits w) : c.mask ≤ 255 :=
  (Nat.le_mul_of_pos_right _ h.scale_pos).trans h.value_le

theorem scale_le {w : WordWidth} {c : BitFieldSpec} (h : c.Fits w) : c.scale ≤ 255 :=
  (Nat.le_mul_of_pos_left _ h.mask_pos).trans h.value_le

/-- Settles O6: the two conditions on mask and scale bound the mask from both sides by the same quotient. -/
theorem maskIsTheLargestRawField : Obligations.MaskIsTheLargestRawField := by
  intro w c hwf
  have hfits := BitFieldSpec.fits_of_wf hwf
  exact ⟨mask_eq_div hfits, mask_le hfits, hfits.width_le, scale_le hfits⟩

theorem testBit_mask {w : WordWidth} {c : BitFieldSpec} (h : c.Fits w) (i : Nat) :
    c.mask.testBit i = decide (i < bitwidth c.mask) := by
  conv_lhs => rw [h.mask_eq]
  exact Nat.testBit_two_pow_sub_one _ _

/-- A raw field is made of the field's bits. -/
theorem rawField_congr {w : WordWidth} {c : BitFieldSpec} (h : c.Fits w) {p q : Nat}
    (hbits : ∀ i, c.shift ≤ i → i < c.shift + bitwidth c.mask → p.testBit i = q.testBit i) :
    (p >>> c.shift) &&& c.mask = (q >>> c.shift) &&& c.mask := by
  refine Nat.eq_of_testBit_eq fun i => ?_
  rw [Nat.testBit_and, Nat.testBit_and, Nat.testBit_shiftRight, Nat.testBit_shiftRight, testBit_mask h]
  by_cases hi : i < bitwidth c.mask
  · rw [hbits (c.shift + i) (by omega) (by omega)]
  · simp [hi]

theorem decompose_le {w : WordWidth} {c : BitFieldSpec} (h : c.Fits w) (p : Nat) : decompose c p ≤ 255 :=
  (Nat.mul_le_mul_right _ (rawField_le c p)).trans h.value_le

/-- Settles O8: `decompose` reads its value through the raw field alone. -/
theorem decomposeReadsItsFieldOnly : Obligations.DecomposeReadsItsFieldOnly := by
  intro w c hwf p q hbits
  have hfits := BitFieldSpec.fits_of_wf hwf
  exact ⟨congrArg (· * c.scale) (rawField_congr hfits hbits), decompose_le hfits p⟩

/-- The raw field of a pixel is its field moved down. -/
theorem rawField_eq_field_shiftRight (c : BitFieldSpec) (p : Nat) :
    (p >>> c.shift) &&& c.mask = (p &&& c.field) >>> c.shift := by
  rw [BitFieldSpec.field, Nat.shiftRight_and_distrib, Nat.shiftLeft_shiftRight]

/-- A raw field moved back up is the pixel's field. -/
theorem rawField_shiftLeft (c : BitFieldSpec) (p : Nat) : ((p >>> c.shift) &&& c.mask) <<< c.shift = p &&& c.field := by
  refine Nat.eq_of_testBit_eq fun i => ?_
  simp only [BitFieldSpec.field, Nat.testBit_shiftLeft, Nat.testBit_and, Nat.testBit_shiftRight]
  by_cases hi : c.shift ≤ i
  · simp [hi, Nat.add_sub_cancel' hi]
  · simp [hi]

theorem rawField_recompose {w : WordWidth} {c : BitFieldSpec} (h : c.Fits w) {v : Nat} (hv : v ≤ 255) :
    (recompose c v >>> c.shift) &&& c.mask = v / c.scale := by
  rw [recompose, Nat.shiftLeft_shiftRight, quotient_and_mask h hv]

/-- A quotient multiplied back is the value rounded down. -/
theorem decompose_of_rawField {c : BitFieldSpec} {p v : Nat} (h : (p >>> c.shift) &&& c.mask = v / c.scale) :
    decompose c p = v - v % c.scale := by
  rw [decompose, h, Nat.div_mul_self_eq_mod_sub_self]

theorem recompose_decompose {w : WordWidth} {c : BitFieldSpec} (h : c.Fits w) (p : Nat) :
    recompose c (decompose c p) = p &&& c.field := by
  rw [recompose, decompose, Nat.mul_div_cancel _ h.scale_pos, rawField_shiftLeft]

/-- Settles O11: a recomposed value's raw field is its quotient, and a decomposed pixel's quotient is its raw field. -/
theorem channelCompositions : Obligations.ChannelCompositions := by
  intro w c hwf
  have hfits := BitFieldSpec.fits_of_wf hwf
  exact ⟨fun v hv => decompose_of_rawField (rawField_recompose hfits hv), recompose_decompose hfits⟩

/-! The two commands. -/

theorem decomposeResult_some {rom : Registry} {name : FmtId} {d : FormatDescriptor} (h : romAt rom name = some d)
    (ch : Channel) (packed : Word) : decomposeResult rom name ch packed =
      .ok [valueWord (decompose (laneOf d.channels ch) (pixelOperand d.wordWidth packed))] := by
  simp only [decomposeResult, resolve_some h]

theorem recomposeResult_some {rom : Registry} {name : FmtId} {d : FormatDescriptor} (h : romAt rom name = some d)
    (ch : Channel) (value : Component) : recomposeResult rom name ch value =
      .ok [valueWord (recompose (laneOf d.channels ch) value.toNat)] := by
  simp only [recomposeResult, resolve_some h, componentOperand]

theorem component_le (v : Component) : v.toNat ≤ 255 := Nat.le_of_lt_succ v.isLt

/-- Settles O12: a registered format's function returns one word, whose field a format's width does not cut. -/
theorem decomposeCommandCompletes : Obligations.DecomposeCommandCompletes := by
  rintro s name ch packed d c hwf hd rfl
  have hfits := fits_of_romAt hwf hd ch
  refine ⟨State.complete_of_ok ?word, decompose_le hfits packed.toNat⟩
  rw [decomposeResult_some hd, decompose_pixelOperand hfits]
  rfl

/-- Settles O13: a registered format's function returns one word, the value's quotient in its channel's field. -/
theorem recomposeCommandCompletes : Obligations.RecomposeCommandCompletes := by
  rintro s name ch value d c hwf hd rfl
  have hfits := fits_of_romAt hwf hd ch
  have hv := component_le value
  exact ⟨State.complete_of_ok (recomposeResult_some hd ch value), recompose_and_field hfits hv, recompose_lt_word hfits hv⟩

end Sys2Proof.Machine
end

section
/-! The pixel codec on well-formed descriptors (40_bitfield R93, R94, 42_codec R110, R114): four fields without a common bit, so
each lane of a packed pixel can be read back. -/

namespace Sys2Proof.Machine

/-! Disjoint fields. -/

/-- Numbers without a common bit add up without a carry. -/
theorem or_eq_add_of_and_eq_zero {x y : Nat} (h : x &&& y = 0) : x ||| y = x + y := by
  have hx : x < 2 ^ (x + y) := (Nat.le_add_right x y).trans_lt Nat.lt_two_pow_self
  have hy : y < 2 ^ (x + y) := (Nat.le_add_left y x).trans_lt Nat.lt_two_pow_self
  have hxy : x + y < 2 ^ (x + y) := Nat.lt_two_pow_self
  have hand : BitVec.ofNatLT x hx &&& BitVec.ofNatLT y hy = 0 := BitVec.eq_of_toNat_eq (by simpa using h)
  have hadd := congrArg BitVec.toNat (BitVec.add_eq_or_of_and_eq_zero _ _ hand)
  rw [BitVec.toNat_add, BitVec.toNat_or, BitVec.toNat_ofNatLT, BitVec.toNat_ofNatLT, Nat.mod_eq_of_lt hxy] at hadd
  exact hadd.symm

theorem BitFieldSpec.and_field_of_disjoint {c e : BitFieldSpec} (h : c.disjoint e = true) :
    c.field &&& e.field = 0 ∧ e.field &&& c.field = 0 := by
  have hce : c.field &&& e.field = 0 := beq_iff_eq.mp h
  exact ⟨hce, Nat.and_comm _ _ ▸ hce⟩

theorem fields_disjoint {d : FormatDescriptor} (h : d.wf = true) {ch k : Channel} (hne : ch ≠ k) :
    (laneOf d.channels ch).field &&& (laneOf d.channels k).field = 0 := by
  simp only [FormatDescriptor.wf, FormatDescriptor.disjointFields, Bool.and_eq_true] at h
  obtain ⟨-, ⟨⟨⟨⟨hrg, hrb⟩, hra⟩, hgb⟩, hga⟩, hba⟩ := h
  cases ch <;> cases k
  case r.r | g.g | b.b | a.a => exact absurd rfl hne
  case r.g => exact (BitFieldSpec.and_field_of_disjoint hrg).1
  case g.r => exact (BitFieldSpec.and_field_of_disjoint hrg).2
  case r.b => exact (BitFieldSpec.and_field_of_disjoint hrb).1
  case b.r => exact (BitFieldSpec.and_field_of_disjoint hrb).2
  case r.a => exact (BitFieldSpec.and_field_of_disjoint hra).1
  case a.r => exact (BitFieldSpec.and_field_of_disjoint hra).2
  case g.b => exact (BitFieldSpec.and_field_of_disjoint hgb).1
  case b.g => exact (BitFieldSpec.and_field_of_disjoint hgb).2
  case g.a => exact (BitFieldSpec.and_field_of_disjoint hga).1
  case a.g => exact (BitFieldSpec.and_field_of_disjoint hga).2
  case b.a => exact (BitFieldSpec.and_field_of_disjoint hba).1
  case a.b => exact (BitFieldSpec.and_field_of_disjoint hba).2

/-- The partial word of one lane (42_codec R111). -/
def partialWord (d : FormatDescriptor) (v : Lanes Nat) (ch : Channel) : Nat :=
  recompose (laneOf d.channels ch) (laneOf v ch)

theorem packPixel_eq_or (d : FormatDescriptor) (v : Lanes Nat) :
    packPixel d v = partialWord d v .r ||| partialWord d v .g ||| partialWord d v .b ||| partialWord d v .a := rfl

section
variable {d : FormatDescriptor} (hd : d.wf = true) {v : Lanes Nat} (hv : ∀ ch, laneOf v ch ≤ 255)
include hd hv

theorem partialWord_and_field (ch : Channel) : partialWord d v ch &&& (laneOf d.channels ch).field = partialWord d v ch :=
  recompose_and_field (fits_laneOf hd ch) (hv ch)

theorem partialWord_and_field_of_ne {ch k : Channel} (hne : ch ≠ k) :
    partialWord d v ch &&& (laneOf d.channels k).field = 0 := by
  rw [← partialWord_and_field hd hv ch, Nat.and_assoc, fields_disjoint hd hne, Nat.and_zero]

theorem partialWord_and_partialWord_of_ne {ch k : Channel} (hne : ch ≠ k) : partialWord d v ch &&& partialWord d v k = 0 := by
  rw [← partialWord_and_field hd hv k, Nat.and_comm (partialWord d v k), ← Nat.and_assoc,
    partialWord_and_field_of_ne hd hv hne, Nat.zero_and]

theorem partialWord_lt (ch : Channel) : partialWord d v ch < 2 ^ d.wordWidth.bits :=
  recompose_lt_word (fits_laneOf hd ch) (hv ch)

theorem packPixel_lt : packPixel d v < 2 ^ d.wordWidth.bits := by
  rw [packPixel_eq_or]
  exact Nat.or_lt_two_pow (Nat.or_lt_two_pow (Nat.or_lt_two_pow (partialWord_lt hd hv .r) (partialWord_lt hd hv .g))
    (partialWord_lt hd hv .b)) (partialWord_lt hd hv .a)

/-- The OR of the four partial words is their sum. -/
theorem packPixel_eq_add :
    packPixel d v = partialWord d v .r + partialWord d v .g + partialWord d v .b + partialWord d v .a := by
  have hdisj {ch k : Channel} (hne : ch ≠ k) := partialWord_and_partialWord_of_ne hd hv hne
  rw [packPixel_eq_or, or_eq_add_of_and_eq_zero, or_eq_add_of_and_eq_zero, or_eq_add_of_and_eq_zero]
  all_goals simp [Nat.and_or_distrib_right, hdisj]

/-- Of a packed pixel a channel's field keeps its own partial word. -/
theorem packPixel_and_field (ch : Channel) : packPixel d v &&& (laneOf d.channels ch).field = partialWord d v ch := by
  have hown := partialWord_and_field hd hv ch
  have hother {k : Channel} (hne : k ≠ ch) := partialWord_and_field_of_ne hd hv hne
  rw [packPixel_eq_or, Nat.and_or_distrib_right, Nat.and_or_distrib_right, Nat.and_or_distrib_right]
  cases ch <;> simp [hown, hother]

theorem rawField_packPixel (ch : Channel) :
    (packPixel d v >>> (laneOf d.channels ch).shift) &&& (laneOf d.channels ch).mask =
      laneOf v ch / (laneOf d.channels ch).scale := by
  rw [rawField_eq_field_shiftRight, packPixel_and_field hd hv, ← partialWord_and_field hd hv, ← rawField_eq_field_shiftRight]
  exact rawField_recompose (fits_laneOf hd ch) (hv ch)

end

theorem laneOf_le {r g b a n : Nat} (hr : r ≤ n) (hg : g ≤ n) (hb : b ≤ n) (ha : a ≤ n) (ch : Channel) :
    laneOf (⟨r, g, b, a⟩ : Lanes Nat) ch ≤ n := by
  cases ch <;> assumption

/-- Settles O24: the four partial words lie in disjoint fields, so their OR is their sum and each field keeps its own. -/
theorem encodedFieldsHoldTheQuotients : Obligations.EncodedFieldsHoldTheQuotients := by
  intro d hd r g b a hr hg hb ha
  have hv := laneOf_le hr hg hb ha
  exact ⟨packPixel_lt hd hv, packPixel_eq_add hd hv, rawField_packPixel hd hv⟩

theorem laneOf_unpackPixel (d : FormatDescriptor) (p : Nat) (ch : Channel) :
    laneOf (unpackPixel d p) ch = decompose (laneOf d.channels ch) p := by
  cases ch <;> rfl

/-- Settles O26: a channel reads back the quotient that was packed into its field. -/
theorem componentRoundTripRoundsDown : Obligations.ComponentRoundTripRoundsDown := by
  intro d hd r g b a hr hg hb ha ch
  rw [laneOf_unpackPixel]
  exact decompose_of_rawField (rawField_packPixel hd (laneOf_le hr hg hb ha) ch)

/-- The bits a format's four fields use. -/
def usedBits (d : FormatDescriptor) : Nat :=
  d.channels.r.field ||| d.channels.g.field ||| d.channels.b.field ||| d.channels.a.field

theorem packPixel_unpackPixel {d : FormatDescriptor} (hd : d.wf = true) (p : Nat) :
    packPixel d (unpackPixel d p) = p &&& usedBits d := by
  obtain ⟨hr, hg, hb, ha⟩ := FormatDescriptor.channels_fit hd
  simp only [packPixel, unpackPixel, recompose_decompose hr, recompose_decompose hg, recompose_decompose hb,
    recompose_decompose ha, usedBits, Nat.and_or_distrib_left]

theorem wf_reset : ∀ d ∈ State.reset.rom.entries, d.wf = true := by decide

/-- The default table's formats use every bit of their words (10_state R30; D4, D5). -/
theorem usedBits_reset : ∀ d ∈ State.reset.rom.entries, usedBits d = 2 ^ d.wordWidth.bits - 1 := by decide

theorem packPixel_unpackPixel_reset {d : FormatDescriptor} (hd : d ∈ State.reset.rom.entries) {p : Nat}
    (hp : p < 2 ^ d.wordWidth.bits) : packPixel d (unpackPixel d p) = p := by
  rw [packPixel_unpackPixel (wf_reset d hd), usedBits_reset d hd, Nat.and_two_pow_sub_one_of_lt_two_pow hp]

/-- Settles O25: decoding and encoding keep the bits of the four fields, which in the default table are all. -/
theorem pixelRoundTrip : Obligations.PixelRoundTrip :=
  ⟨fun _ hd v hv => (packPixel_unpackPixel hd v).trans hv, fun _ hd _ hp => packPixel_unpackPixel_reset hd hp⟩

/-! The range of decode, and the bits it ignores. -/

theorem decompose_zero (c : BitFieldSpec) : decompose c 0 = 0 := by
  simp [decompose]

theorem unpackPixel_zero (d : FormatDescriptor) : unpackPixel d 0 = ⟨0, 0, 0, 0⟩ := by
  simp only [unpackPixel, decompose_zero]

theorem and_FFFF_toNat (p : Word) : (p &&& 0x0000FFFF).toNat = p.toNat % 2 ^ 16 := by
  rw [BitVec.toNat_and]
  exact Nat.and_two_pow_sub_one_eq_mod p.toNat 16

/-- A 16-bit format's operand is the lower half of the payload word (30_encoding R68). -/
theorem pixelOperand_w16_and_FFFF (p : Word) : pixelOperand .w16 (p &&& 0x0000FFFF) = pixelOperand .w16 p := by
  rw [pixelOperand, and_FFFF_toNat]
  exact Nat.mod_mod _ _

/-- Settles O21: each lane is a `decompose` of one operand, which for a 16-bit format is the word's lower half; the all-ones words
of the default table are computed. -/
theorem decodeRangeAndIgnoredBits : Obligations.DecodeRangeAndIgnoredBits := by
  refine ⟨unpackPixel_zero, ?lanes, by decide, ?ignored⟩
  case lanes =>
    intro d p ch
    obtain ⟨-, -, hdvd, hle⟩ := decomposeIsRawFieldTimesScale (laneOf d.channels ch) p
    rw [laneOf_unpackPixel]
    exact ⟨hdvd, hle⟩
  case ignored =>
    intro s packed name d hd hw
    rw [exec_decode_of_romAt hd, exec_decode_of_romAt hd, hw, pixelOperand_w16_and_FFFF]

end Sys2Proof.Machine
end

section
/-! CONVERT by pixel (43_pipeline R122 to R125): what one pixel becomes, and its agreement with DECODE and ENCODE. -/

namespace Sys2Proof.Machine

theorem exists_romAt_of_supports {rom : Registry} {name : FmtId} (h : supports rom name = true) :
    ∃ d, romAt rom name = some d :=
  Option.isSome_iff_exists.mp h

/-- Settles O28: the two registry reads fix the function before any pixel is looked at. -/
theorem convertIsOneFunctionPerPixel : Obligations.ConvertIsOneFunctionPerPixel := by
  intro rom source target hsource htarget
  obtain ⟨f, hf⟩ := exists_romAt_of_supports hsource
  obtain ⟨t, ht⟩ := exists_romAt_of_supports htarget
  refine ⟨convertPixel f t, ?_⟩
  rintro s pixels rfl
  exact exec_convert_of_map hf ht rfl

theorem wf_of_romAt {rom : Registry} (h : rom.wf = true) {id : FmtId} {d : FormatDescriptor} (hd : romAt rom id = some d) :
    d.wf = true :=
  Registry.wf_entry h (romAt_some_mem hd).1

theorem laneOf_unpackPixel_le {d : FormatDescriptor} (hd : d.wf = true) (p : Nat) (ch : Channel) :
    laneOf (unpackPixel d p) ch ≤ 255 := by
  rw [laneOf_unpackPixel]
  exact decompose_le (fits_laneOf hd ch) p

theorem exists_component {n : Nat} (h : n ≤ 255) : ∃ v : Component, n = v.toNat :=
  ⟨BitVec.ofNatLT n (Nat.lt_succ_of_le h), rfl⟩

theorem exists_components {c : Lanes Nat} (hc : ∀ ch, laneOf c ch ≤ 255) :
    ∃ r g b a : Component, c = ⟨r.toNat, g.toNat, b.toNat, a.toNat⟩ := by
  obtain ⟨r, hr⟩ := exists_component (hc .r)
  obtain ⟨g, hg⟩ := exists_component (hc .g)
  obtain ⟨b, hb⟩ := exists_component (hc .b)
  obtain ⟨a, ha⟩ := exists_component (hc .a)
  refine ⟨r, g, b, a, ?_⟩
  rw [← hr, ← hg, ← hb, ← ha]
  rfl

/-- A component's payload word is its byte, zero-extended (30_encoding R69). -/
theorem valueWord_component (v : Component) : valueWord v.toNat = v.setWidth 32 :=
  BitVec.ofNat_toNat 32 v

/-- Settles O29: the lanes DECODE answers are components, so ENCODE reads the very numbers CONVERT passes on. -/
theorem convertIsDecodeThenEncode : Obligations.ConvertIsDecodeThenEncode := by
  intro s pixel source target hwf hsource htarget
  obtain ⟨f, hf⟩ := exists_romAt_of_supports hsource
  obtain ⟨t, ht⟩ := exists_romAt_of_supports htarget
  obtain ⟨r, g, b, a, hlanes⟩ := exists_components (laneOf_unpackPixel_le (wf_of_romAt hwf hf) (pixelOperand f.wordWidth pixel))
  refine ⟨r, g, b, a, convertPixel f t pixel, ?decode, exec_encode_of_packPixel ht ?pack, exec_convert_of_map hf ht rfl⟩
  case decode =>
    rw [exec_decode_of_romAt hf, hlanes]
    simp only [lanesInOrder, List.map, valueWord_component]
  case pack => rw [hlanes]

theorem pixelOperand_lt (w : WordWidth) (p : Word) : pixelOperand w p < 2 ^ w.bits :=
  Nat.mod_lt _ (Nat.two_pow_pos _)

theorem valueWord_toNat_of_lt {w : WordWidth} {n : Nat} (h : n < 2 ^ w.bits) : (valueWord n).toNat = n := by
  rw [valueWord, BitVec.toNat_ofNat]
  exact Nat.mod_eq_of_lt (h.trans_le (Nat.pow_le_pow_right (by decide) (wordWidth_bits_le w)))

/-- The operand of a format as a payload word again: a 16-bit format's has its upper half cleared. -/
theorem valueWord_pixelOperand (w : WordWidth) (p : Word) :
    valueWord (pixelOperand w p) = if w = .w16 then p &&& 0x0000FFFF else p := by
  apply BitVec.eq_of_toNat_eq
  rw [valueWord_toNat_of_lt (pixelOperand_lt w p)]
  cases w with
  | w16 => exact (and_FFFF_toNat p).symm
  | w32 => exact Nat.mod_eq_of_lt p.isLt

theorem convertPixel_self_reset {d : FormatDescriptor} (hd : d ∈ State.reset.rom.entries) (p : Word) :
    convertPixel d d p = if d.wordWidth = .w16 then p &&& 0x0000FFFF else p := by
  rw [convertPixel, packPixel_unpackPixel_reset hd (pixelOperand_lt _ p), valueWord_pixelOperand]

/-- Settles O30: the default table's formats keep every bit of their words, so a pixel's operand comes back. -/
theorem convertToTheSameFormatIsIdentity : Obligations.ConvertToTheSameFormatIsIdentity := by
  intro s pixels d hrom hd
  rw [hrom] at hd
  have hread : romAt s.rom d.name = some d := hrom ▸ romAt_reset_name d hd
  exact exec_convert_of_map hread hread (List.map_congr_left fun p _ => convertPixel_self_reset hd p)

/-- Settles O31: the converted pixel fits its word, and each field holds the quotient of the source's component. -/
theorem convertedChannelIsTheScaledQuotient : Obligations.ConvertedChannelIsTheScaledQuotient := by
  intro s pixel source target f t hwf hf ht
  refine ⟨convertPixel f t pixel, exec_convert_of_map hf ht rfl, ?_⟩
  rintro ch c e rfl rfl
  have hfwf := wf_of_romAt hwf hf
  have htwf := wf_of_romAt hwf ht
  have hc := laneOf_unpackPixel_le hfwf pixel.toNat
  rw [convertPixel_of_wf hfwf, valueWord_toNat_of_lt (packPixel_lt htwf hc), rawField_packPixel htwf hc, laneOf_unpackPixel]
  rfl

end Sys2Proof.Machine
end

section
/-! The registry (41_registry R97 to R106, 10_state R22 to R30): its queries, and the default table. -/

namespace Sys2Proof.Machine

/-! The queries. -/

/-- The canonical order of a registry puts its names in ascending order. -/
theorem pairwise_name_of_ascending {ds : List FormatDescriptor} (h : ascending ds = true) :
    ds.Pairwise fun d e => d.name.toNat < e.name.toNat := by
  rw [← List.isChain_iff_pairwise]
  induction ds using ascending.induct with
  | case1 => exact .nil
  | case2 d => exact .singleton d
  | case3 d e rest ih =>
    simp only [ascending, Bool.and_eq_true, decide_eq_true_eq] at h
    exact .cons_cons h.1 (ih h.2)

theorem listSupported_pairwise {rom : Registry} (h : rom.wf = true) :
    (listSupported rom).Pairwise fun x y => x.toNat < y.toNat := by
  simp only [Registry.wf, Bool.and_eq_true] at h
  exact List.pairwise_map.mpr (pairwise_name_of_ascending h.2)

theorem exec_listSupported_of_names {s : State} {ws : List Word} (h : (listSupported s.rom).map nameWord = ws) :
    exec .listSupported s = .next { s with responses := s.responses ++ [⟨0x00000000, ws⟩] } :=
  State.complete_of_ok (congrArg Except.ok h)

/-- Settles O17: the answer is the registry's names, which the canonical order of a well-formed registry sorts. -/
theorem listSupportedCommandCompletes : Obligations.ListSupportedCommandCompletes := by
  refine ⟨fun s => exec_listSupported_of_names rfl, fun rom hwf => ⟨listSupported_pairwise hwf, fun x => ?registered⟩,
    ?reset⟩
  case registered => rw [← supports_iff_mem, supports_iff_romAt_ne_none]
  case reset =>
    intro s hrom
    refine exec_listSupported_of_names ?_
    rw [hrom, listSupported_reset]
    rfl

/-- Settles O15: the function of SUPPORTS never fails, and its word says whether the read found an entry. -/
theorem supportsCommandCompletes : Obligations.SupportsCommandCompletes := fun _ _ => State.complete_of_ok rfl

theorem supports_iff_resolve {rom : Registry} {x : FmtId} : supports rom x = true ↔ ∃ d, resolve rom x = .ok d := by
  cases h : romAt rom x with
  | none => simp [supports, h, resolve_none h]
  | some d => simp [supports, h, resolve_some h]

theorem not_supports_iff_resolve {rom : Registry} {x : FmtId} :
    supports rom x = false ↔ resolve rom x = .error .unknownFormat := by
  rw [resolve_eq_error_iff, supports, Option.isSome_eq_false_iff, Option.isNone_iff_eq_none]
  exact ⟨fun h => ⟨h, rfl⟩, fun h => h.1⟩

/-- Settles O19: every query asks which reads find an entry, and the listed names are those whose reads do. -/
theorem registryQueriesAgree : Obligations.RegistryQueriesAgree := by
  intro rom
  refine ⟨fun xs ys => List.all_append, fun x => ?singleton, fun x => supports_iff_resolve,
    fun x => not_supports_iff_resolve, supports_iff_mem rom, List.all_eq_true.mpr fun x => (supports_iff_mem rom x).mpr⟩
  case singleton => simp [supportsAll]

theorem resolveResult_some {rom : Registry} {name : FmtId} {d : FormatDescriptor} (h : romAt rom name = some d) :
    resolveResult rom name = .ok (descriptorWords d) := by
  simp only [resolveResult, resolve_some h]

theorem wordWidth_word (w : WordWidth) : valueWord w.bits = if w = .w16 then 16 else 32 := by
  cases w <;> rfl

/-- Settles O18: the descriptor's words are its width and then three numbers per lane. -/
theorem resolveCommandCompletes : Obligations.ResolveCommandCompletes := by
  intro s name w r g b a hd
  rw [← wordWidth_word]
  exact State.complete_of_ok (resolveResult_some hd)

/-! The default table. -/

theorem romAt_reset_of_unregistered {id : FmtId} (h : 5 < id.toNat) : romAt State.reset.rom id = none := by
  by_contra hne
  have := (supports_reset_iff id).mp ((supports_iff_romAt_ne_none _ _).mpr hne)
  omega

/-- Settles O2: the entries are read by their names, and the names end at 5. -/
theorem resetHoldsTheDecidedTable : Obligations.ResetHoldsTheDecidedTable := by
  have hread : ∀ d ∈ State.reset.rom.entries, romAt State.reset.rom d.name = some d := romAt_reset_name
  exact ⟨hread Rom.rgba4444 (by decide), hread Rom.rgba5551 (by decide), hread Rom.argb5551 (by decide),
    hread Rom.rgba8888 (by decide), hread Rom.bgra8888 (by decide), fun _ => romAt_reset_of_unregistered, rfl, rfl, rfl⟩

/-- Settles O4: the numbers of the table's six entries. -/
theorem defaultTableProperties : Obligations.DefaultTableProperties := by
  unfold Obligations.DefaultTableProperties
  decide

end Sys2Proof.Machine
end

section
/-! The host's byte layouts (20_memory R47, R49, R50): the bytes a word is written as and the word read back. -/

namespace Sys2Proof.Machine

theorem byteOf_toNat (v : Word) (k : Nat) : (byteOf v k).toNat = v.toNat / 2 ^ (8 * k) % 2 ^ 8 := by
  rw [byteOf, BitVec.extractLsb'_toNat, Nat.shiftRight_eq_div_pow]

theorem byteOf_word16OfBytes (b0 b1 : Byte) :
    byteOf (word16OfBytes b0 b1) 0 = b0 ∧ byteOf (word16OfBytes b0 b1) 1 = b1 := by
  have h0 := b0.isLt
  have h1 := b1.isLt
  simp only [← BitVec.toNat_inj, byteOf_toNat, word16OfBytes_toNat]
  omega

theorem byteOf_word32OfBytes (b0 b1 b2 b3 : Byte) :
    byteOf (word32OfBytes b0 b1 b2 b3) 0 = b0 ∧ byteOf (word32OfBytes b0 b1 b2 b3) 1 = b1 ∧
      byteOf (word32OfBytes b0 b1 b2 b3) 2 = b2 ∧ byteOf (word32OfBytes b0 b1 b2 b3) 3 = b3 := by
  have h0 := b0.isLt
  have h1 := b1.isLt
  have h2 := b2.isLt
  have h3 := b3.isLt
  simp only [← BitVec.toNat_inj, byteOf_toNat, word32OfBytes_toNat]
  omega

/-- Settles O52: the bytes of a word are read back from the places they were put in; the file's parts are written one after the
other. -/
theorem texturePixelByteOrder : Obligations.TexturePixelByteOrder := by
  refine ⟨?pixel16, ?pixel32, ?file⟩
  case pixel16 =>
    intro b0 b1
    obtain ⟨h0, h1⟩ := byteOf_word16OfBytes b0 b1
    rw [pixelBytes, h0, h1]
  case pixel32 =>
    intro b0 b1 b2 b3
    obtain ⟨h0, h1, h2, h3⟩ := byteOf_word32OfBytes b0 b1 b2 b3
    rw [pixelBytes, h0, h1, h2, h3]
  case file =>
    intro t width height pixels
    refine ⟨(Config.textureTags t.name).flatMap le32Bytes, ?_⟩
    simp only [textureBytes, List.flatMap_cons, List.append_assoc]

/-- A word's little-endian bytes give the word back. -/
theorem word32OfBytes_byteOf (v : Word) : word32OfBytes (byteOf v 0) (byteOf v 1) (byteOf v 2) (byteOf v 3) = v := by
  have := v.isLt
  rw [← BitVec.toNat_inj, word32OfBytes_toNat]
  simp only [byteOf_toNat]
  omega

theorem length_le32Bytes (v : Word) : (le32Bytes v).length = 4 := rfl

/-- A word written in a file is read at the offset of what stands before it. -/
theorem readLe32_of_prefix {file before : List Byte} {v : Word} (h : before ++ le32Bytes v <+: file) {offset : Nat}
    (hoffset : before.length = offset) : readLe32 file offset = some v := by
  obtain ⟨after, rfl⟩ := h
  rw [readLe32, List.append_assoc, List.drop_left' hoffset]
  exact congrArg some (word32OfBytes_byteOf v)

/-- Settles O53: each of the four words stands four bytes after the one before it. -/
theorem bitmapHeaderLayout : Obligations.BitmapHeaderLayout := by
  intro before after start size width height hbefore
  generalize hfile : before ++ le32Bytes start ++ le32Bytes size ++ le32Bytes width ++ le32Bytes height ++ after = file
  have hheight : before ++ le32Bytes start ++ le32Bytes size ++ le32Bytes width ++ le32Bytes height <+: file := ⟨after, hfile⟩
  have hwidth := (List.prefix_append _ _).trans hheight
  have hsize := (List.prefix_append _ _).trans hwidth
  have hstart := (List.prefix_append _ _).trans hsize
  have hoffsets : (before ++ le32Bytes start).length = 0x0E ∧ (before ++ le32Bytes start ++ le32Bytes size).length = 0x12 ∧
      (before ++ le32Bytes start ++ le32Bytes size ++ le32Bytes width).length = 0x16 := by
    simp [hbefore, length_le32Bytes]
  obtain ⟨hoffsize, hoffwidth, hoffheight⟩ := hoffsets
  rw [readBitmapHeader, readLe32_of_prefix hstart hbefore, readLe32_of_prefix hsize hoffsize,
    readLe32_of_prefix hwidth hoffwidth, readLe32_of_prefix hheight hoffheight]
  rfl

end Sys2Proof.Machine
end
